-- ==== Sys2Proof/Word.lean ====
section
/-! DEFINITION. The two word sizes of the block: a byte (00_scope.md R9) and the 16-bit command or response word
(30_encoding.md R80, R81), and the null value (00_scope.md R10). -/

namespace Sys2Proof

/-- A byte: what a buffer cell, a transmitted item and a received item hold (R9: 8 bits). -/
abbrev Byte := BitVec 8

/-- A command word (R80) or a response word (R81): 16 bits, passed whole. -/
abbrev Word := BitVec 16

/-- `NUL`, the value the Input Framer writes to null-terminate a frame (R10). -/
abbrev NUL : Byte := 0x00#8

end Sys2Proof
end

