-- ==== Sys2Proof/Config.lean ====
section
/-! DEFINITION. The parameters of an instance (00_scope.md R6, R8) and the one value the spec leaves open
(93_implementation_defined.md U4). -/

namespace Sys2Proof

/-- The parameters of one instance of the block, fixed while it runs (R6, R8, R41). -/
structure Config where
  /-- `K`, log2 of the capacity (R6); an instance has `2 ≤ k ≤ 8` (`Config.Legal`). -/
  k : Nat
  /-- `TERM`, the byte that ends a frame (R8). -/
  term : Byte
  deriving DecidableEq, Repr

/-- R6: `2 <= K <= 8`. -/
abbrev Config.Legal (c : Config) : Prop := 2 ≤ c.k ∧ c.k ≤ 8

/-- `C = 2^K`, the capacity of each buffer in bytes (R6). -/
def Config.capacity (c : Config) : Nat := 2 ^ c.k

/-- The instance `State.reset` stands for. DESIGN CHOICE (log 1): `K = 3`, the instance of 95_test_vectors.md, since
the spec leaves `K` open; `TERM = 0x0D` is R8's default. Unsafe for a claim that names it; the statements are for every
`Config`. -/
def Config.default : Config := { k := 3, term := 0x0D#8 }

/-- FREE VALUE (U4, log 6): the unspecified byte that `RDBUF i` returns for a cell `IBUF[i]` that holds no value, after
the `n`-th power-on (first argument `n`, second argument `i`). It has no body: nothing can be proved of it. It depends on
the power-on and the cell alone, so that repeating `RDBUF i` returns the same byte (20_memory.md R67, R127). -/
opaque Config.unwrittenByte : Nat → Nat → Byte

end Sys2Proof
end

