-- ==== Sys2Proof/Syntax.lean ====
section
/-! DEFINITION. The block's commands: one constructor per row of spec/opcode_table.json (30_encoding.md R83), and the
names of the register view (10_state.md section 5). -/

namespace Sys2Proof

/-- The registers `RDREG` reads, in the order of their numbers 0 to 6 (10_state.md section 5). -/
inductive Reg where
  | widx | ridx | len | status | caplog | termreg | ocount
  deriving DecidableEq, Repr

/-- The six commands (R83). -/
inductive Instr where
  /-- `INIT` (R160). -/
  | init
  /-- `ENQ b`: enqueue the byte `b` (R100). -/
  | enq (b : Byte)
  /-- `SVC`: service both directions once (R140). -/
  | svc
  /-- `CLR`: clear the Input Framer (R126). -/
  | clr
  /-- `RDBUF i`: read `IBUF[i]` (R127). -/
  | rdbuf (i : Byte)
  /-- `RDREG r`: read a register of the register view (R161). -/
  | rdreg (r : Reg)
  deriving DecidableEq, Repr

end Sys2Proof
end

