-- ==== Sys2Proof/WellFormed.lean ====
section
/-! DEFINITION. Which commands an instance admits (30_encoding.md R82): the only operand check that the syntax leaves
over is `i < C` of `RDBUF`. -/

namespace Sys2Proof

/-- R82, R84: the command is legal on an instance with parameters `c`. -/
def Instr.wellFormed (c : Config) : Instr → Bool
  | .init => true
  | .enq _ => true
  | .svc => true
  | .clr => true
  | .rdbuf i => decide (i.toNat < c.capacity)
  | .rdreg _ => true

end Sys2Proof
end

