-- ==== Sys2Proof/Decode.lean ====
section
/-! DEFINITION. Command words: the fields (30_encoding.md R80), decoding (R84), the opcode map as rows of match and mask
(R83), encoding, and the host's view of the opcode table. -/

namespace Sys2Proof

/-- `OP`, `cmd[15:12]` (R80). -/
def opField (w : Word) : BitVec 4 := w.extractLsb' 12 4

/-- `RSV`, `cmd[11:8]` (R80). -/
def rsvField (w : Word) : BitVec 4 := w.extractLsb' 8 4

/-- `IMM8`, `cmd[7:0]` (R80, R82). -/
def immField (w : Word) : Byte := w.extractLsb' 0 8

/-- The word `{OP, RSV = 0, IMM8}` (R80). -/
def commandWord (op : BitVec 4) (imm : Byte) : Word := op ++ 0x0#4 ++ imm

/-- The number of a register of the register view (10_state.md section 5). -/
def regNumber : Reg → Byte
  | .widx => 0
  | .ridx => 1
  | .len => 2
  | .status => 3
  | .caplog => 4
  | .termreg => 5
  | .ocount => 6

/-- The register with a number, none for 7 and above (10_state.md section 5, R82). -/
def regOfNumber (n : Byte) : Option Reg :=
  match n.toNat with
  | 0 => some .widx
  | 1 => some .ridx
  | 2 => some .len
  | 3 => some .status
  | 4 => some .caplog
  | 5 => some .termreg
  | 6 => some .ocount
  | _ => none

/-- Why a word is illegal: the causes of 60_exceptions.md R182. -/
inductive DecodeError where
  /-- `RSV != 0`. -/
  | reservedBits
  /-- OP 0x0, 0x7 to 0xF. -/
  | undefinedOpcode
  /-- a nonzero operand on `INIT`, `SVC` or `CLR`. -/
  | nonzeroOperand
  /-- `RDBUF i` with `i >= C`. -/
  | indexOutOfRange
  /-- `RDREG r` with `r >= 7`. -/
  | registerOutOfRange
  deriving DecidableEq, Repr

/-- A command without an operand: `IMM8` must be 0 (R82). -/
def decodePlain (i : Instr) (imm : Byte) : Except DecodeError Instr :=
  if imm = 0 then .ok i else .error .nonzeroOperand

/-- `RDBUF i`, legal when `i < C` (R82). -/
def decodeRdbuf (c : Config) (imm : Byte) : Except DecodeError Instr :=
  if imm.toNat < c.capacity then .ok (.rdbuf imm) else .error .indexOutOfRange

/-- `RDREG r`, legal when `r <= 6` (R82). -/
def decodeRdreg (imm : Byte) : Except DecodeError Instr :=
  match regOfNumber imm with
  | some r => .ok (.rdreg r)
  | none => .error .registerOutOfRange

/-- Decode (R84): every word is exactly one command, or illegal by a named cause. The capacity decides the legal indices
of `RDBUF`. -/
def decode (c : Config) (w : Word) : Except DecodeError Instr :=
  if rsvField w ≠ 0 then .error .reservedBits
  else
    match (opField w).toNat with
    | 1 => decodePlain .init (immField w)
    | 2 => .ok (.enq (immField w))
    | 3 => decodePlain .svc (immField w)
    | 4 => decodePlain .clr (immField w)
    | 5 => decodeRdbuf c (immField w)
    | 6 => decodeRdreg (immField w)
    | _ => .error .undefinedOpcode

/-- R84's predicate `legal(cmd)`, clause by clause. -/
def legal (c : Config) (w : Word) : Prop :=
  rsvField w = 0 ∧
    ((opField w = 0x1#4 ∧ immField w = 0) ∨
     (opField w = 0x2#4) ∨
     (opField w = 0x3#4 ∧ immField w = 0) ∨
     (opField w = 0x4#4 ∧ immField w = 0) ∨
     (opField w = 0x5#4 ∧ (immField w).toNat < c.capacity) ∨
     (opField w = 0x6#4 ∧ (immField w).toNat ≤ 6))

/-- The word of a command (the encodings of R100, R126, R127, R140, R160, R161). -/
def encode : Instr → Word
  | .init => commandWord 0x1 0
  | .enq b => commandWord 0x2 b
  | .svc => commandWord 0x3 0
  | .clr => commandWord 0x4 0
  | .rdbuf i => commandWord 0x5 i
  | .rdreg r => commandWord 0x6 (regNumber r)

/-- A row of the opcode map: a word matches it when `cmd & mask == match` (R83). -/
structure OpcodeRow where
  /-- The column `match`. -/
  pattern : Word
  /-- The column `mask`. -/
  mask : Word
  deriving DecidableEq, Repr

/-- The opcode map's row of a command (R83, spec/opcode_table.json). -/
def rowOf : Instr → OpcodeRow
  | .init => { pattern := 0x1000, mask := 0xFFFF }
  | .enq _ => { pattern := 0x2000, mask := 0xFF00 }
  | .svc => { pattern := 0x3000, mask := 0xFFFF }
  | .clr => { pattern := 0x4000, mask := 0xFFFF }
  | .rdbuf _ => { pattern := 0x5000, mask := 0xFF00 }
  | .rdreg _ => { pattern := 0x6000, mask := 0xFF00 }

/-- R83: the word matches the row. -/
def OpcodeRow.Matches (r : OpcodeRow) (w : Word) : Prop := w &&& r.mask = r.pattern

/-- The command that the decoder reads from a table word of `nbits` bits whose bits are `w` (bit 0 the least significant
bit of the one 16-bit word; bits above `nbits` are 0), on the instance of `State.reset` (log 16). -/
def decodeTableWord (nbits w : Nat) : Option Instr :=
  match decode Config.default (BitVec.ofNat 16 (w % 2 ^ nbits)) with
  | .ok i => some i
  | .error _ => none

end Sys2Proof
end

