-- ==== Sys2Proof/Machine/State.lean ====
section
/-! DEFINITION. The machine's state as plain data: the six elements of 10_state.md R30, the instance's parameters, the
observation state of R42, R181 and R210, and the model's own fields for the outside world. `State.reset` is the state after
power-on reset (70_reset_and_hazards.md R200). -/

namespace Sys2Proof.Machine

/-- A byte buffer: its cells that hold a byte, as (index, byte) pairs with strictly rising indices. An index that is not
listed is a cell that holds no value (R31, R37; log 7). -/
abbrev Memory := List Host.Cell

/-- The two byte-cell address spaces (20_memory.md R60). -/
inductive Space where
  | obuf | ibuf
  deriving DecidableEq, Repr

/-- The state of the Input Framer's state machine, the bit `FSTATE` (R40): 0 is `accumulating`, 1 is `frameReady`. -/
inductive FState where
  | accumulating | frameReady
  deriving DecidableEq, Repr

/-- What the peripheral answers during one command (R55). `rx = none` is `rx_avail = 0`; `rx = some b` is
`rx_avail = 1` with `rx_data = b`. -/
structure Answers where
  txReady : Bool
  rx : Option Byte
  deriving DecidableEq, Repr

/-- What reaches the block from outside, between commands (R51): a command word on the command port with the answers the
peripheral will give while it runs (R53, R55), or a power-on reset (R200). -/
inductive HostEvent where
  | command (cmd : Word) (answers : Answers)
  | powerOn
  deriving DecidableEq, Repr

/-- The model faults (00_scope.md R14, 60_exceptions.md R182). A fault is either RECORDED in `State.faults` while the
machine goes on as the hardware does, or it STOPS the step. A recorded fault marks a run about which the spec makes no
claim (R14, R181). -/
inductive Fault where
  /-- An illegal command word (R181). Recorded by `State.takeIllegalCommand`; never stops a step. Safe: the hardware's
  response and unchanged state are modelled, and the record excludes the run from every claim (log 4). -/
  | illegalCommand (cmd : Word)
  /-- A read of a buffer cell that holds no value (R14, R127). Recorded by `RDBUF`, which goes on with a free byte (log 5).
  Stops a step only in the drain step at a pending cell without a byte, which R36 rules out in every reachable state
  (log 8). Safe. -/
  | unwrittenRead (space : Space) (index : Nat)
  /-- An access at an index `>= C`, which "no operation" makes (R60). Stops the step; only a state whose `WIDX`, `RIDX`
  or `LEN` is outside its range takes it, and no reachable state is (log 9). Safe. -/
  | noSuchCell (space : Space) (index : Nat)
  deriving DecidableEq, Repr

/-- Why an instruction has no meaning here. Every command has its meaning, so nothing raises it. -/
inductive Refusal where
  /-- An instruction whose arm is still rejected by name in `exec`; there is none. Safe. -/
  | notModelled (mnemonic : String)
  deriving DecidableEq, Repr

/-- The machine. -/
structure State where
  /-- The instance's parameters `K` and `TERM`; no step changes them (R6, R8, R41, R47). -/
  cfg : Config
  /-- `OBUF` (R31). -/
  obuf : Memory
  /-- `WIDX`, a `K`-bit register, `0 .. C-1` (R32; a natural number in that range, log 13). -/
  widx : Nat
  /-- `RIDX`, a `K`-bit register, `0 .. C-1` (R33; log 13). -/
  ridx : Nat
  /-- `IBUF` (R37). -/
  ibuf : Memory
  /-- `LEN`, a `K`-bit register, `0 .. C-2` (R38; log 13). -/
  len : Nat
  /-- `FSTATE` (R40). -/
  fstate : FState
  /-- `TXLOG`, the bytes passed to `PeriphWrite`, in order (R42). -/
  txlog : List Byte
  /-- `RXLOG`, the bytes `PeriphRead` returned, in order (R42). -/
  rxlog : List Byte
  /-- The responses returned to the host, in order (R81, R210; log 12). -/
  responses : List Word
  /-- The recorded model faults, never cleared (R181; log 4, log 5). -/
  faults : List Fault
  /-- MODEL'S OWN: what will still reach the block from outside, next first (log 2). -/
  requests : List HostEvent
  /-- MODEL'S OWN: the peripheral's answers for the command in execution (R55; log 3). -/
  periph : Answers
  /-- MODEL'S OWN: how often the block was powered on again; names the free draw of unwritten cells' bytes (log 6). -/
  powerOns : Nat
  deriving DecidableEq, Repr

/-- The state after power-on reset (R200) of an instance with parameters `c`. DESIGN CHOICE: nothing is requested yet
(log 2), the peripheral answers not ready and no byte (log 3), and the free draw is number 0 (log 6). -/
def State.resetWith (c : Config) : State :=
  { cfg := c
    obuf := []
    widx := 0
    ridx := 0
    ibuf := []
    len := 0
    fstate := .accumulating
    txlog := []
    rxlog := []
    responses := []
    faults := []
    requests := []
    periph := { txReady := false, rx := none }
    powerOns := 0 }

/-- The machine right after reset (R200), on the instance `Config.default` (log 1). -/
def State.reset : State := State.resetWith Config.default

end Sys2Proof.Machine
end

