-- ==== Sys2Proof/Machine/Memory.lean ====
section
/-! DEFINITION. Byte buffers: reading and writing one cell, the only accesses there are (00_scope.md R13, 20_memory.md
R65), and the canonical form of a buffer. -/

namespace Sys2Proof.Machine

/-- The byte in cell `i`; none when the cell holds no value (R31, R37). -/
def Memory.read : Memory → Nat → Option Byte
  | [], _ => none
  | (a, v) :: m, i => if a = i then some v else Memory.read m i

/-- Cell `i` holds `b` from now on. -/
def Memory.write : Memory → Nat → Byte → Memory
  | [], i, b => [(i, b)]
  | (a, v) :: m, i, b =>
    if i < a then (i, b) :: (a, v) :: m
    else if i = a then (i, b) :: m
    else (a, v) :: Memory.write m i b

/-- Every listed index is above `lo`, and the indices rise strictly. -/
def Memory.risesFrom (lo : Nat) : Memory → Bool
  | [] => true
  | (a, _) :: m => decide (lo < a) && Memory.risesFrom a m

/-- The canonical form: indices strictly rising. An unlisted index reads as no value, so no entry can equal it. -/
def Memory.wf : Memory → Bool
  | [] => true
  | (a, _) :: m => Memory.risesFrom a m

/-- Every cell that holds a byte has an index below `n`. -/
def Memory.below (n : Nat) (m : Memory) : Bool := m.all fun c => decide (c.1 < n)

end Sys2Proof.Machine
end

