-- ==== Sys2Proof/Machine/Flags.lean ====
section
/-! DEFINITION. Every status the block computes: empty, full and occupancy of the Output Channel (10_state.md R34 to R36),
the STATUS register (R48), and the response word with its flags (30_encoding.md R81). -/

namespace Sys2Proof.Machine

/-- `(x + 1) mod C`, the index increment (00_scope.md R16). -/
def nextIndex (c : Config) (x : Nat) : Nat := (x + 1) % c.capacity

/-- Empty: `WIDX == RIDX` (R34). -/
def State.oempty (s : State) : Bool := decide (s.widx = s.ridx)

/-- Full: `(WIDX + 1) mod C == RIDX` (R35). -/
def State.ofull (s : State) : Bool := decide (nextIndex s.cfg s.widx = s.ridx)

/-- `OCOUNT`, computed as `(WIDX + C - RIDX) mod C` (R36). -/
def State.ocount (s : State) : Nat := (s.widx + s.cfg.capacity - s.ridx) % s.cfg.capacity

/-- The bit `FSTATE` (R40). -/
def FState.bit : FState → Bool
  | .accumulating => false
  | .frameReady => true

/-- `STATUS`: `{00000, FSTATE, OFULL, OEMPTY}` (R48). -/
def State.status (s : State) : Byte :=
  0#5 ++ BitVec.ofBool s.fstate.bit ++ BitVec.ofBool s.ofull ++ BitVec.ofBool s.oempty

/-- The fields of a response word; a field that a command leaves out is 0 (R81). -/
structure Response where
  err : Bool := false
  rx : Bool := false
  tx : Bool := false
  f : Bool := false
  data : Byte := 0
  deriving DecidableEq, Repr

/-- The response word `{ERR, 0000, RX, TX, F, DATA}` (R81). -/
def Response.toWord (r : Response) : Word :=
  BitVec.ofBool r.err ++ 0#4 ++ BitVec.ofBool r.rx ++ BitVec.ofBool r.tx ++ BitVec.ofBool r.f ++ r.data

end Sys2Proof.Machine
end

