-- ==== Sys2Proof/Machine/Operands.lean ====
section
/-! DEFINITION. What the operands of the commands select (30_encoding.md R82): the register view that `RDREG` reads
(10_state.md section 5), and the cell that `RDBUF` reads. The operand of `ENQ` is the byte itself. -/

namespace Sys2Proof.Machine

/-- `zext_8` of a register of at most 8 bits (00_scope.md R12). -/
def zext8 (n : Nat) : Byte := BitVec.ofNat 8 n

/-- The value of a register of the register view (R44 to R49, R161). -/
def State.regView (s : State) : Reg → Byte
  | .widx => zext8 s.widx
  | .ridx => zext8 s.ridx
  | .len => zext8 s.len
  | .status => s.status
  | .caplog => zext8 s.cfg.k
  | .termreg => s.cfg.term
  | .ocount => zext8 s.ocount

/-- The index of the cell that `RDBUF i` reads: `i`, unsigned, neither scaled nor shifted (R82). -/
def bufIndex (i : Byte) : Nat := i.toNat

end Sys2Proof.Machine
end

