-- ==== Sys2Proof/Machine/Ops.lean ====
section
/-! DEFINITION. The named operations the commands are made of: access to a buffer cell (20_memory.md R60), the peripheral
(10_state.md R54), the response (30_encoding.md R81), the block's one exception (60_exceptions.md R181), and power-on reset
(70_reset_and_hazards.md R200). -/

namespace Sys2Proof.Machine

/-! ### Buffer cells -/

/-- The buffer of a space (R60). -/
def State.cells (s : State) : Space → Memory
  | .obuf => s.obuf
  | .ibuf => s.ibuf

/-- The state with another buffer in a space. -/
def State.withCells (s : State) (sp : Space) (m : Memory) : State :=
  match sp with
  | .obuf => { s with obuf := m }
  | .ibuf => { s with ibuf := m }

/-- `MemRead(space, i, 1)` (R13): the byte of cell `i`, or none when it holds no value. An index `>= C` does not exist
(R60). -/
def State.readCell (s : State) (sp : Space) (i : Nat) : Except Fault (Option Byte) :=
  if i < s.cfg.capacity then .ok ((s.cells sp).read i) else .error (.noSuchCell sp i)

/-- `MemWrite(space, i, 1, b)` (R13). An index `>= C` does not exist (R60). -/
def State.writeCell (s : State) (sp : Space) (i : Nat) (b : Byte) : Except Fault State :=
  if i < s.cfg.capacity then .ok (s.withCells sp ((s.cells sp).write i b)) else .error (.noSuchCell sp i)

/-! ### The peripheral port -/

/-- `PeriphWrite(b)`: the byte goes to the peripheral and into `TXLOG` (R42, R54). -/
def State.periphWrite (s : State) (b : Byte) : State := { s with txlog := s.txlog ++ [b] }

/-- `PeriphRead()` when it returns `b`: the byte goes into `RXLOG` (R42, R54). -/
def State.periphRead (s : State) (b : Byte) : State := { s with rxlog := s.rxlog ++ [b] }

/-! ### The command port -/

/-- `resp <- r`: the command's one response word (R13, R81). -/
def State.respond (s : State) (r : Response) : State := { s with responses := s.responses ++ [r.toWord] }

/-- A model fault is recorded and never cleared (R181); the machine goes on. -/
def State.recordFault (s : State) (f : Fault) : State := { s with faults := s.faults ++ [f] }

/-- TAKING THE EXCEPTION, the illegal-command outcome (R181, R185): no block state changes, the peripheral is not called,
the response is 0x8000, and the model records the word. Nothing is saved and control goes nowhere, so there is no return
operation: the next command is processed as if this word had not been issued (R186). -/
def State.takeIllegalCommand (s : State) (cmd : Word) : State :=
  (s.recordFault (.illegalCommand cmd)).respond { err := true }

/-! ### Resets of registers -/

/-- The Input Framer's part of `CLR` and `INIT`: `LEN <- 0`, `FSTATE <- ACCUMULATING`, `IBUF` as it was (R126, R160). -/
def State.clearFramer (s : State) : State := { s with len := 0, fstate := .accumulating }

/-- The Output Channel's part of `INIT`: both indices to 0, `OBUF` as it was (R160). -/
def State.clearIndices (s : State) : State := { s with widx := 0, ridx := 0 }

/-- Power-on reset as an event (R200): the four registers to 0, every cell without a value, `TXLOG` and `RXLOG` empty, no
response, no peripheral call. What unwritten cells return is drawn anew (log 6); the records of responses and of faults,
the parameters and the outside world's fields stay (log 11). -/
def State.powerOn (s : State) : State :=
  { s.clearIndices.clearFramer with
    obuf := [], ibuf := [], txlog := [], rxlog := [], powerOns := s.powerOns + 1 }

end Sys2Proof.Machine
end

