-- ==== Sys2Proof/Machine/Control.lean ====
section
/-! DEFINITION. The control commands (43_control.md): `INIT` and `RDREG`. -/

namespace Sys2Proof.Machine

/-- `INIT` (R160): `WIDX`, `RIDX`, `LEN`, `FSTATE` to 0, both buffers as they were, response 0x0000. -/
def execInit (s : State) : Host.Outcome State Fault Refusal := .next (s.clearIndices.clearFramer.respond {})

/-- `RDREG r` (R161): the register's value in `DATA`; nothing changes. -/
def execRdreg (r : Reg) (s : State) : Host.Outcome State Fault Refusal := .next (s.respond { data := s.regView r })

end Sys2Proof.Machine
end

