-- ==== Sys2Proof/Machine/InputFramer.lean ====
section
/-! DEFINITION. The Input Framer (41_input_framer.md): the receive step of `SVC`, `CLR` and `RDBUF`. -/

namespace Sys2Proof.Machine

/-- The room test `LEN < C - 2` (R122). -/
def State.hasRoom (s : State) : Bool := decide (s.len < s.cfg.capacity - 2)

/-- `IBUF[LEN] <- NUL`, `FSTATE <- 1`, `LEN` as it was (R121). -/
def State.completeFrame (s : State) : Except Fault State :=
  match s.writeCell .ibuf s.len NUL with
  | .error f => .error f
  | .ok s1 => .ok { s1 with fstate := .frameReady }

/-- `IBUF[LEN] <- b`, `LEN <- LEN + 1` (R122). -/
def State.appendByte (s : State) (b : Byte) : Except Fault State :=
  match s.writeCell .ibuf s.len b with
  | .error f => .error f
  | .ok s1 => .ok { s1 with len := s.len + 1 }

/-- `ReceiveStep(rx_avail, rx_data) -> (rx, fr)` (R120): the test for the terminator comes before the test for room
(R184), a byte without room is consumed and dropped (R123), and `FSTATE` is not read (R40). -/
def receiveStep (rx : Option Byte) (s : State) : Except Fault (Bool × Bool × State) :=
  match rx with
  | none => .ok (false, false, s)
  | some b =>
    if b = s.cfg.term then
      match (s.periphRead b).completeFrame with
      | .error f => .error f
      | .ok s1 => .ok (true, true, s1)
    else if s.hasRoom then
      match (s.periphRead b).appendByte b with
      | .error f => .error f
      | .ok s1 => .ok (true, false, s1)
    else .ok (true, false, s.periphRead b)

/-- `CLR` (R126): `LEN` and `FSTATE` to 0, `IBUF` and the Output Channel as they were, response 0x0000. -/
def execClr (s : State) : Host.Outcome State Fault Refusal := .next (s.clearFramer.respond {})

/-- `RDBUF i` (R127): the byte of `IBUF[i]`. A cell that holds no value answers `ERR = 0` and an unspecified byte, a free
value, and the model's fault is recorded (R182; log 5). An index `>= C` is the illegal command that decoding refuses (R85). -/
def execRdbuf (i : Byte) (s : State) : Host.Outcome State Fault Refusal :=
  match s.readCell .ibuf (bufIndex i) with
  | .error _ => .next (s.takeIllegalCommand (encode (.rdbuf i)))
  | .ok (some b) => .next (s.respond { data := b })
  | .ok none =>
    .next ((s.recordFault (.unwrittenRead .ibuf (bufIndex i))).respond
      { data := Config.unwrittenByte s.powerOns (bufIndex i) })

end Sys2Proof.Machine
end

