-- ==== Sys2Proof/Machine/OutputChannel.lean ====
section
/-! DEFINITION. The Output Channel (40_output_channel.md): `ENQ`, and the drain step of `SVC`. -/

namespace Sys2Proof.Machine

/-- `ENQ b` (R100): a full channel drops the byte with response 0x0000; otherwise the byte goes to `OBUF[WIDX]`, `WIDX`
advances modulo `C` and the response has `F = 1`. -/
def execEnq (b : Byte) (s : State) : Host.Outcome State Fault Refusal :=
  if s.ofull then .next (s.respond {})
  else
    match s.writeCell .obuf s.widx b with
    | .error f => .fault f
    | .ok s1 => .next (State.respond { s1 with widx := nextIndex s.cfg s.widx } { f := true })

/-- `DrainStep(tx_ready) -> tx` (R103): when the peripheral is ready and the channel is not empty, hand `OBUF[RIDX]` to it
and advance `RIDX` modulo `C`. The cell keeps its byte (R109). A pending cell without a byte, which R36 excludes, is the
model fault of R14 (log 8). -/
def drainStep (txReady : Bool) (s : State) : Except Fault (Bool × State) :=
  if txReady && !s.oempty then
    match s.readCell .obuf s.ridx with
    | .error f => .error f
    | .ok none => .error (.unwrittenRead .obuf s.ridx)
    | .ok (some b) => .ok (true, { s.periphWrite b with ridx := nextIndex s.cfg s.ridx })
  else .ok (false, s)

end Sys2Proof.Machine
end

