-- ==== Sys2Proof/Machine/Service.lean ====
section
/-! DEFINITION. The service operation (42_service.md): `SVC`. -/

namespace Sys2Proof.Machine

/-- `SVC` (R140): the drain step, then the receive step, each on the peripheral's answers for this command, and one
response with `RX`, `TX` and `F`. -/
def execSvc (s : State) : Host.Outcome State Fault Refusal :=
  match drainStep s.periph.txReady s with
  | .error f => .fault f
  | .ok (tx, s1) =>
    match receiveStep s.periph.rx s1 with
    | .error f => .fault f
    | .ok (rx, fr, s2) => .next (s2.respond { rx := rx, tx := tx, f := fr })

end Sys2Proof.Machine
end

