-- ==== Sys2Proof/Machine/Dispatch.lean ====
section
/-! DEFINITION. One arm per command (30_encoding.md R83), each a direct call of its meaning. -/

namespace Sys2Proof.Machine

def exec (i : Instr) (s : State) : Host.Outcome State Fault Refusal :=
  match i with
  | .init => Sys2Proof.Machine.execInit s
  | .enq b => Sys2Proof.Machine.execEnq b s
  | .svc => Sys2Proof.Machine.execSvc s
  | .clr => Sys2Proof.Machine.execClr s
  | .rdbuf ix => Sys2Proof.Machine.execRdbuf ix s
  | .rdreg r => Sys2Proof.Machine.execRdreg r s

end Sys2Proof.Machine
end

