-- ==== Sys2Proof/Machine/Fetch.lean ====
section
/-! DEFINITION. How a command reaches the block: the command port (10_state.md R53), legality before everything else
(60_exceptions.md R184), and one outside event per step. -/

namespace Sys2Proof.Machine

/-- The next event from outside and the state that still waits for the rest; none when nothing was requested. -/
def State.nextEvent (s : State) : Option (HostEvent × State) :=
  match s.requests with
  | [] => none
  | e :: rest => some (e, { s with requests := rest })

/-- A command word on the port: an illegal word takes the illegal-command outcome and has no other effect (R181, R184);
a legal one is executed. -/
def issue (cmd : Word) (s : State) : Host.Outcome State Fault Refusal :=
  match decode s.cfg cmd with
  | .ok i => exec i s
  | .error _ => .next (s.takeIllegalCommand cmd)

/-- The block's reaction to one event: a command runs with the peripheral's answers that belong to it (R55); a power-on
resets (R200). -/
def handle (e : HostEvent) (s : State) : Host.Outcome State Fault Refusal :=
  match e with
  | .command cmd answers => issue cmd { s with periph := answers }
  | .powerOn => .next s.powerOn

/-- One step: the next event, or nothing at all when there is none (60_exceptions.md R192; log 10). -/
def advance (s : State) : Host.Outcome State Fault Refusal :=
  match s.nextEvent with
  | none => .next s
  | some (e, s1) => handle e s1

/-- The host presents the word `cmd` next; the peripheral's answers for it are those now at the port (log 2, log 3). -/
def State.present (s : State) (cmd : Word) : State :=
  { s with requests := .command cmd s.periph :: s.requests }

end Sys2Proof.Machine
end

