-- ==== Sys2Proof/Machine/Assembler.lean ====
section
/-! DEFINITION. The assembler of 30_encoding.md R86 and the pseudo-instruction `ENQS` of R87: from a line of text to the
commands it stands for. No step of the machine uses it. What R86 and R87 leave open (blanks, capitals, where a `;` may stand, an
operand out of range, other escapes, characters that are not ASCII, unclosed strings and the like) is log 17. -/

namespace Sys2Proof.Machine

/-- `ENQS b1, …, bn` expands to `ENQ b1; …; ENQ bn` (R87, 40_output_channel.md R102); the empty list to nothing. -/
def enqs (bs : List Byte) : List Instr := bs.map Instr.enq

/-- A blank: space or tabulator (log 17). -/
def isBlank (c : Char) : Bool := c.toNat = 32 || c.toNat = 9

/-- The text from its first character that is no blank. -/
def skipBlanks : List Char → List Char
  | [] => []
  | c :: cs => if isBlank c then skipBlanks cs else c :: cs

/-- Only blanks, then the line's end or a comment, which `;` (ASCII 0x3B) starts (R86). -/
def atLineEnd (cs : List Char) : Bool :=
  match skipBlanks cs with
  | [] => true
  | c :: _ => c.toNat = 0x3B

/-- The value of a decimal digit. -/
def decDigit (c : Char) : Option Nat :=
  if 0x30 ≤ c.toNat ∧ c.toNat ≤ 0x39 then some (c.toNat - 0x30) else none

/-- The value of a hexadecimal digit, of either case. -/
def hexDigit (c : Char) : Option Nat :=
  if 0x41 ≤ c.toNat ∧ c.toNat ≤ 0x46 then some (c.toNat - 0x41 + 10)
  else if 0x61 ≤ c.toNat ∧ c.toNat ≤ 0x66 then some (c.toNat - 0x61 + 10)
  else decDigit c

/-- The remaining digits of a number whose value so far is `acc`, and the text after them. -/
def readDigits (digit : Char → Option Nat) (base : Nat) : Nat → List Char → Nat × List Char
  | acc, [] => (acc, [])
  | acc, c :: cs =>
    match digit c with
    | some d => readDigits digit base (acc * base + d) cs
    | none => (acc, c :: cs)

/-- A number of at least one digit, and the text after it. -/
def readNumber (digit : Char → Option Nat) (base : Nat) : List Char → Option (Nat × List Char)
  | [] => none
  | c :: cs =>
    match digit c with
    | some d => some (readDigits digit base d cs)
    | none => none

/-- A character literal after its opening quote (ASCII 0x27): its ASCII code, and the text after it (R86). DESIGN CHOICE
(log 17): the one character may be a quote or a backslash, no escape is read, and a character that is not ASCII gives
none. -/
def readCharLiteral : List Char → Option (Nat × List Char)
  | c :: q :: cs => if q.toNat = 0x27 ∧ c.toNat < 128 then some (c.toNat, cs) else none
  | _ => none

/-- An operand: a decimal number, a `0x` hexadecimal number or a character literal (R86), and the text after it. -/
def readOperand : List Char → Option (Nat × List Char)
  | '0' :: 'x' :: cs => readNumber hexDigit 16 cs
  | c :: cs => if c.toNat = 0x27 then readCharLiteral cs else readNumber decDigit 10 (c :: cs)
  | [] => none

/-- An operand that fits a byte, and the text after it. -/
def readByte (cs : List Char) : Option (Byte × List Char) :=
  match readOperand (skipBlanks cs) with
  | some (n, rest) => if n < 256 then some (BitVec.ofNat 8 n, rest) else none
  | none => none

/-- The word of capital letters at the start of a text, and the text after it. -/
def readName : List Char → List Char × List Char
  | [] => ([], [])
  | c :: cs =>
    if 0x41 ≤ c.toNat ∧ c.toNat ≤ 0x5A then
      let r := readName cs
      (c :: r.1, r.2)
    else ([], c :: cs)

/-- The register names `RDREG` takes for the numbers 0 to 6 (R86). -/
def regOfName (name : List Char) : Option Reg :=
  if name = ['W', 'I', 'D', 'X'] then some .widx
  else if name = ['R', 'I', 'D', 'X'] then some .ridx
  else if name = ['L', 'E', 'N'] then some .len
  else if name = ['S', 'T', 'A', 'T', 'U', 'S'] then some .status
  else if name = ['C', 'A', 'P', 'L', 'O', 'G'] then some .caplog
  else if name = ['T', 'E', 'R', 'M', 'R', 'E', 'G'] then some .termreg
  else if name = ['O', 'C', 'O', 'U', 'N', 'T'] then some .ocount
  else none

/-- The operand of `RDREG`: a number or a name, and the text after it (R86). -/
def readReg (cs : List Char) : Option (Reg × List Char) :=
  match readName (skipBlanks cs) with
  | ([], _) =>
    match readByte cs with
    | some (n, rest) => (regOfNumber n).map fun r => (r, rest)
    | none => none
  | (name, rest) => (regOfName name).map fun r => (r, rest)

/-- What an escape in a string stands for: `\r`, `\n`, `\\` and the quote (R87). R87 lists these four; none for any other
character (DESIGN CHOICE, log 17). -/
def escapeCode (c : Char) : Option Nat :=
  if c = 'r' then some 0x0D
  else if c = 'n' then some 0x0A
  else if c.toNat = 0x5C then some 0x5C
  else if c.toNat = 0x22 then some 0x22
  else none

/-- The bytes of a string after its opening quote (ASCII 0x22), and the text after its closing quote (R87). A backslash
is ASCII 0x5C. DESIGN CHOICE (log 17), since R87 is silent on them: none, so that the line is no command line, where a
backslash precedes a character without an escape of R87, where a character is not ASCII, and where the closing quote is
missing. -/
def readString : List Char → Option (List Byte × List Char)
  | [] => none
  | [c] => if c.toNat = 0x22 then some ([], []) else none
  | c :: e :: cs =>
    if c.toNat = 0x22 then some ([], e :: cs)
    else if c.toNat = 0x5C then
      match escapeCode e, readString cs with
      | some n, some (bs, rest) => some (BitVec.ofNat 8 n :: bs, rest)
      | _, _ => none
    else if c.toNat < 128 then
      match readString (e :: cs) with
      | some (bs, rest) => some (BitVec.ofNat 8 c.toNat :: bs, rest)
      | none => none
    else none

/-- A list of byte operands separated by commas, to the end of the line; the first argument bounds its length. Blanks may
stand around a comma, and an empty element gives none (DESIGN CHOICE, log 17). -/
def readByteList : Nat → List Char → Option (List Byte)
  | 0, _ => none
  | n + 1, cs =>
    match readByte cs with
    | none => none
    | some (b, rest) =>
      match skipBlanks rest with
      | ',' :: more => (readByteList n more).map fun bs => b :: bs
      | r => if atLineEnd r then some [b] else none

/-- The operands of `ENQS`: a string, a list of byte operands, or nothing (R87). -/
def readEnqs (cs : List Char) : Option (List Byte) :=
  match skipBlanks cs with
  | [] => some []
  | c :: rest =>
    if c.toNat = 0x3B then some []
    else if c.toNat = 0x22 then
      match readString rest with
      | some (bs, r) => if atLineEnd r then some bs else none
      | none => none
    else readByteList (cs.length + 1) cs

/-- The command of an operand that ends the line. -/
def finish (i : Instr) (rest : List Char) : Option (List Instr) :=
  if atLineEnd rest then some [i] else none

/-- What follows a mnemonic: a blank, a comment or the line's end. -/
def isSeparated : List Char → Bool
  | [] => true
  | c :: _ => isBlank c || c.toNat = 0x3B

/-- The commands of one line (R86, R87): a mnemonic and at most one operand, then perhaps a comment; a line without a
mnemonic stands for no command. None where the line has not this form. -/
def assembleLine (line : List Char) : Option (List Instr) :=
  match readName (skipBlanks line) with
  | ([], rest) => if atLineEnd rest then some [] else none
  | (name, rest) =>
    if !isSeparated rest then none
    else if name = ['I', 'N', 'I', 'T'] then finish .init rest
    else if name = ['S', 'V', 'C'] then finish .svc rest
    else if name = ['C', 'L', 'R'] then finish .clr rest
    else if name = ['E', 'N', 'Q'] then (readByte rest).bind fun r => finish (.enq r.1) r.2
    else if name = ['R', 'D', 'B', 'U', 'F'] then (readByte rest).bind fun r => finish (.rdbuf r.1) r.2
    else if name = ['R', 'D', 'R', 'E', 'G'] then (readReg rest).bind fun r => finish (.rdreg r.1) r.2
    else if name = ['E', 'N', 'Q', 'S'] then (readEnqs rest).map enqs
    else none

end Sys2Proof.Machine
end

