-- ==== Sys2Proof/Safety.lean ====
section
/-! DEFINITION. The terms the statements use: the invariant of every reachable state, the contents of the two units, what a
command leaves unchanged, the two halves of `SVC`, and runs. -/

namespace Sys2Proof.Machine

/-! ### Contents -/

/-- The pending bytes, oldest first: `OBUF[RIDX], …, OBUF[(RIDX + OCOUNT - 1) mod C]` (10_state.md R36). -/
def State.pending (s : State) : List (Option Byte) :=
  (List.range s.ocount).map fun n => s.obuf.read ((s.ridx + n) % s.cfg.capacity)

/-- The accumulated content, `IBUF[0 .. LEN-1]` (R39, 41_input_framer.md R128). -/
def State.frame (s : State) : List (Option Byte) := (List.range s.len).map fun n => s.ibuf.read n

/-! ### The invariant -/

/-- What holds of every state that a run from reset reaches. -/
structure Inv (s : State) : Prop where
  /-- `2 <= K <= 8` (R6). -/
  cfg_legal : s.cfg.Legal
  /-- `WIDX` is in `0 .. C-1` (R32). -/
  widx_lt : s.widx < s.cfg.capacity
  /-- `RIDX` is in `0 .. C-1` (R33). -/
  ridx_lt : s.ridx < s.cfg.capacity
  /-- `LEN` is in `0 .. C-2` (R38). -/
  len_le : s.len ≤ s.cfg.capacity - 2
  /-- `OBUF` is in canonical form. -/
  obuf_wf : s.obuf.wf = true
  /-- `OBUF` has no cell at an index `>= C` (R60). -/
  obuf_below : s.obuf.below s.cfg.capacity = true
  /-- `IBUF` is in canonical form. -/
  ibuf_wf : s.ibuf.wf = true
  /-- `IBUF[C-1]` and above hold no value (R37). -/
  ibuf_below : s.ibuf.below (s.cfg.capacity - 1) = true
  /-- Every pending cell holds a byte (R36). -/
  pending_held : ∀ n, n < s.ocount → (s.obuf.read ((s.ridx + n) % s.cfg.capacity)).isSome = true
  /-- Every content cell holds a byte, and none holds `TERM` (R39). -/
  content_held : ∀ n, n < s.len → (s.ibuf.read n).isSome = true ∧ s.ibuf.read n ≠ some s.cfg.term

/-- No model fault is recorded: the spec makes its claims about such runs only (00_scope.md R14). -/
abbrev State.Claimed (s : State) : Prop := s.faults = []

/-! ### What stays unchanged -/

/-- Every cell but cell `i` reads as before. -/
def SameCellsBut (i : Nat) (m m' : Memory) : Prop := ∀ a, a ≠ i → m'.read a = m.read a

/-- Every cell reads as before. -/
def SameCells (m m' : Memory) : Prop := ∀ a, m'.read a = m.read a

/-- The Output Channel is unchanged. -/
structure OutputKept (s t : State) : Prop where
  widx : t.widx = s.widx
  ridx : t.ridx = s.ridx
  obuf : SameCells s.obuf t.obuf

/-- The Input Framer is unchanged. -/
structure InputKept (s t : State) : Prop where
  len : t.len = s.len
  fstate : t.fstate = s.fstate
  ibuf : SameCells s.ibuf t.ibuf

/-- The peripheral was not called: `TXLOG` and `RXLOG` are unchanged. -/
structure PeripheralUntouched (s t : State) : Prop where
  txlog : t.txlog = s.txlog
  rxlog : t.rxlog = s.rxlog

/-- The parameters and the outside world's fields are unchanged. -/
structure OutsideKept (s t : State) : Prop where
  cfg : t.cfg = s.cfg
  requests : t.requests = s.requests
  periph : t.periph = s.periph
  powerOns : t.powerOns = s.powerOns

/-- The block's state, the logs of the peripheral and the outside's fields are unchanged; only responses and recorded
faults may differ. -/
structure BlockKept (s t : State) : Prop where
  output : OutputKept s t
  input : InputKept s t
  peripheral : PeripheralUntouched s t
  outside : OutsideKept s t

/-- Two states that differ at most in the records of responses and faults and in the peripheral's last answers. -/
def SameButRecords (s t : State) : Prop :=
  t = { s with responses := t.responses, faults := t.faults, periph := t.periph }

/-! ### The two halves of `SVC` -/

/-- What the drain step does to the Output Channel and the peripheral, and its bit `tx` (40_output_channel.md R103). -/
def DrainEffect (txReady : Bool) (s t : State) (tx : Bool) : Prop :=
  t.widx = s.widx ∧ SameCells s.obuf t.obuf ∧
    if txReady = true ∧ s.widx ≠ s.ridx then
      tx = true ∧ t.ridx = (s.ridx + 1) % s.cfg.capacity ∧
        ∃ b, s.obuf.read s.ridx = some b ∧ t.txlog = s.txlog ++ [b]
    else tx = false ∧ t.ridx = s.ridx ∧ t.txlog = s.txlog

/-- What the receive step does to the Input Framer and the peripheral, and its bits `rx` and `fr` (41_input_framer.md
R120 to R123). -/
def ReceiveEffect (answer : Option Byte) (s t : State) (rx fr : Bool) : Prop :=
  match answer with
  | none => rx = false ∧ fr = false ∧ t.rxlog = s.rxlog ∧ InputKept s t
  | some b =>
    rx = true ∧ t.rxlog = s.rxlog ++ [b] ∧
      if b = s.cfg.term then
        fr = true ∧ t.len = s.len ∧ t.fstate = .frameReady ∧
          t.ibuf.read s.len = some NUL ∧ SameCellsBut s.len s.ibuf t.ibuf
      else if s.len < s.cfg.capacity - 2 then
        fr = false ∧ t.len = s.len + 1 ∧ t.fstate = s.fstate ∧
          t.ibuf.read s.len = some b ∧ SameCellsBut s.len s.ibuf t.ibuf
      else fr = false ∧ InputKept s t

/-- A bit as a 16-bit word. -/
def bitWord (b : Bool) : Word := if b then 1 else 0

/-- `SVC`'s response, `(rx << 10) | (tx << 9) | (fr << 8)` (42_service.md R140). -/
def svcResponse (rx tx fr : Bool) : Word := bitWord rx <<< 10 ||| bitWord tx <<< 9 ||| bitWord fr <<< 8

/-! ### Runs -/

/-- `n` steps of the host's machine. -/
abbrev runFor (n : Nat) (s : State) : Host.Outcome State Fault Refusal := Host.Core.run Sys2Proof.core n s

/-- The host issues a command while the peripheral answers `a`. -/
def request (i : Instr) (a : Answers) : HostEvent := .command (encode i) a

/-- A command that leaves the pending bytes pending or transmits them: neither `INIT` nor power-on (R106, R109). -/
def keepsPending (c : Config) : HostEvent → Bool
  | .powerOn => false
  | .command cmd _ => decide (decode c cmd ≠ .ok .init)

/-- The byte that an event enqueues when its response says `F = 1` (30_encoding.md R81). -/
def acceptedByte (c : Config) (e : HostEvent) (resp : Word) : List Byte :=
  match e with
  | .powerOn => []
  | .command cmd _ =>
    match decode c cmd with
    | .ok (.enq b) => if resp.getLsbD 8 then [b] else []
    | _ => []

/-- The bytes accepted by a sequence of commands with these responses, in acceptance order (R106). -/
def acceptedBytes (c : Config) : List HostEvent → List Word → List Byte
  | e :: es, w :: ws => acceptedByte c e w ++ acceptedBytes c es ws
  | _, _ => []

/-- An `SVC` during which the peripheral answers `tx_ready = 1` (R108). -/
def isReadyService (c : Config) : HostEvent → Bool
  | .powerOn => false
  | .command cmd a => decide (decode c cmd = .ok .svc) && a.txReady

end Sys2Proof.Machine
end

