-- ==== Sys2Proof/Certificates/Slice0/Obligations.lean ====
section
/-! DEFINITION. The statements for the provers, each with the rule of spec/ it formalises. `C` is `cfg.capacity`. -/

open Sys2Proof Sys2Proof.Machine

/-! ### Command words -/

/-- Every well-formed command of every instance is read back from its word (30_encoding.md sections 1 to 3). -/
def Obligations.DecodeOfEncodedCommand : Prop :=
  ∀ (c : Config) (i : Instr), i.wellFormed c = true → decode c (encode i) = .ok i

/-- A word that decodes is the word of its command, and the command is well-formed: no bit of a legal word is dropped. -/
def Obligations.EncodedWordOfDecodedCommand : Prop :=
  ∀ (c : Config) (w : Word) (i : Instr), decode c w = .ok i → encode i = w ∧ i.wellFormed c = true

/-- R84: a word decodes exactly when `legal(cmd)` holds, every other word is refused by a named cause, and with `K = 8`
every `RDBUF` index is legal. -/
def Obligations.DecodesExactlyLegalWords : Prop :=
  ∀ (c : Config) (w : Word),
    ((∃ i, decode c w = .ok i) ↔ legal c w) ∧
    ((∃ e, decode c w = .error e) ↔ ¬ legal c w) ∧
    (c.k = 8 → ∀ ix : Byte, legal c (encode (.rdbuf ix)))

/-- R83: a word decodes exactly when it matches a row of the opcode map whose column "legal when" holds, and it matches no
row but that of its command. -/
def Obligations.DecodeFollowsOpcodeMap : Prop :=
  ∀ (c : Config) (w : Word),
    ((∃ i, decode c w = .ok i) ↔
      (w &&& 0xFFFF#16 = 0x1000#16 ∨ w &&& 0xFF00#16 = 0x2000#16 ∨ w &&& 0xFFFF#16 = 0x3000#16 ∨
        w &&& 0xFFFF#16 = 0x4000#16 ∨ (w &&& 0xFF00#16 = 0x5000#16 ∧ (immField w).toNat < c.capacity) ∨
        (w &&& 0xFF00#16 = 0x6000#16 ∧ (immField w).toNat ≤ 6))) ∧
    (∀ i j, decode c w = .ok i → ((rowOf j).Matches w ↔ rowOf j = rowOf i))

/-- R85: the listed words take the illegal-command outcome, with no state change, no peripheral access and the response
0x8000; no other word is illegal. -/
def Obligations.ListedWordsAreIllegal : Prop :=
  ∀ (cmd : Word) (s : State),
    (¬ legal s.cfg cmd ↔
      (opField cmd = 0 ∨ 7 ≤ (opField cmd).toNat) ∨ rsvField cmd ≠ 0 ∨
        ((opField cmd = 1 ∨ opField cmd = 3 ∨ opField cmd = 4) ∧ immField cmd ≠ 0) ∨
        (opField cmd = 5 ∧ s.cfg.capacity ≤ (immField cmd).toNat) ∨
        (opField cmd = 6 ∧ 7 ≤ (immField cmd).toNat)) ∧
    (¬ legal s.cfg cmd →
      ∃ t, issue cmd s = .next t ∧ BlockKept s t ∧ t.responses = s.responses ++ [0x8000#16])

/-- R88: the encoding examples, and the illegal examples. -/
def Obligations.SpecEncodingExamples : Prop :=
  (∀ c : Config, c.Legal →
    decode c 0x1000#16 = .ok .init ∧ decode c 0x2048#16 = .ok (.enq 0x48#8) ∧
      decode c 0x200D#16 = .ok (.enq 0x0D#8) ∧ decode c 0x3000#16 = .ok .svc ∧ decode c 0x4000#16 = .ok .clr ∧
      decode c 0x5002#16 = .ok (.rdbuf 2#8) ∧ decode c 0x6003#16 = .ok (.rdreg .status) ∧
      decode c 0x6006#16 = .ok (.rdreg .ocount)) ∧
  (∀ c : Config, ∀ w ∈ [0x0000#16, 0x7000#16, 0x1001#16, 0x2100#16, 0x6007#16], ∃ e, decode c w = .error e) ∧
  (∀ c : Config, c.k = 3 → ∃ e, decode c 0x5008#16 = .error e)

/-- R86, R87 on one line of each form (what R86 leaves open is log 17). `ENQS` stands for one `ENQ` a byte. -/
def Obligations.AssemblerExamples : Prop :=
  assembleLine "INIT".toList = some [.init] ∧
  assembleLine "ENQ 'A'".toList = some [.enq 0x41#8] ∧
  assembleLine "ENQ 0x41 ; a comment".toList = some [.enq 0x41#8] ∧
  assembleLine "ENQ   65".toList = some [.enq 0x41#8] ∧
  assembleLine "SVC ; tx_ready=1 rx=0x48".toList = some [.svc] ∧
  assembleLine "CLR".toList = some [.clr] ∧
  assembleLine "RDBUF 0".toList = some [.rdbuf 0#8] ∧
  assembleLine "RDREG LEN".toList = some [.rdreg .len] ∧
  assembleLine "RDREG 2".toList = some [.rdreg .len] ∧
  assembleLine "ENQS \"OK\\r\"".toList = some (enqs [0x4F#8, 0x4B#8, 0x0D#8]) ∧
  assembleLine "ENQS 1, 0x02, '3'".toList = some [.enq 1#8, .enq 2#8, .enq 0x33#8] ∧
  assembleLine "ENQS".toList = some []

/-! ### Steps, reset and the illegal-command outcome -/

/-- A step runs the command that the first word on the port decodes to, on the state in which that request is taken off
and the peripheral's answers for it stand at the port; nothing else happens around `exec`. A word placed by `withFetchWord`
runs on the state itself. The list of requests, the answers in it and `withFetchWord` are the model's (log 2, log 3). -/
def Obligations.StepRunsTheDecodedCommand : Prop :=
  (∀ (s : State) (cmd : Word) (a : Answers) (rest : List HostEvent) (i : Instr),
    s.requests = .command cmd a :: rest → decode s.cfg cmd = .ok i →
      step s = exec i { s with requests := rest, periph := a }) ∧
  (∀ (s : State) (i : Instr), i.wellFormed s.cfg = true →
    step (s.withFetchWord 16 (encode i).toNat) = exec i s)

/-- R192's "it does nothing between commands, and all state persists between them"; that the machine then takes a step at
all is the model's choice (log 10). -/
def Obligations.StepWithoutRequestChangesNothing : Prop :=
  ∀ s : State, s.requests = [] → step s = .next s

/-- R181: an illegal word changes no state, calls no peripheral primitive and returns 0x8000; the model records the word,
and no step ever clears a record. -/
def Obligations.IllegalWordTakesIllegalOutcome : Prop :=
  (∀ (s : State) (cmd : Word) (a : Answers) (rest : List HostEvent),
    s.requests = .command cmd a :: rest → ¬ legal s.cfg cmd →
      ∃ t, step s = .next t ∧ BlockKept { s with requests := rest, periph := a } t ∧
        t.responses = s.responses ++ [0x8000#16] ∧ t.faults = s.faults ++ [.illegalCommand cmd]) ∧
  (∀ s t : State, step s = .next t → s.faults <+: t.faults)

/-- After the illegal-command outcome everything goes on as if the illegal word had not been issued (60_exceptions.md
section 4). The run with the word, one step longer, ends in the same state but for the records and the peripheral's last
answers, and its responses are those of the run without it with 0x8000 put in. The spec says so of the commands that
follow; that it also covers later power-ons, which keep the responses (log 11), and steps with nothing requested (log 10)
is the model's choice, and so is that a run goes on past an illegal word (log 4) and past an `RDBUF` of a cell without a
value (log 5), with the same free byte in both runs (log 6). -/
def Obligations.IllegalWordLeavesNoTrace : Prop :=
  ∀ (s u : State) (cmd : Word) (a : Answers) (rest : List HostEvent) (n : Nat),
    s.requests = .command cmd a :: rest → ¬ legal s.cfg cmd → runFor n { s with requests := rest } = .next u →
      ∃ v later, runFor (n + 1) s = .next v ∧ SameButRecords u v ∧
        u.responses = s.responses ++ later ∧ v.responses = s.responses ++ 0x8000#16 :: later

/-- R200: the state after power-on reset, on every instance; and `INIT` sets the same four registers and leaves the cells. -/
def Obligations.PowerOnResetState : Prop :=
  (∀ c : Config,
    (State.resetWith c).cfg = c ∧ (State.resetWith c).widx = 0 ∧ (State.resetWith c).ridx = 0 ∧
      (State.resetWith c).len = 0 ∧ (State.resetWith c).fstate = .accumulating ∧
      (∀ a, (State.resetWith c).obuf.read a = none) ∧ (∀ a, (State.resetWith c).ibuf.read a = none) ∧
      (State.resetWith c).txlog = [] ∧ (State.resetWith c).rxlog = [] ∧ (State.resetWith c).responses = []) ∧
  State.reset = State.resetWith Config.default ∧
  (∀ s : State, ∃ t, exec .init s = .next t ∧ t.widx = 0 ∧ t.ridx = 0 ∧ t.len = 0 ∧ t.fstate = .accumulating ∧
    SameCells s.obuf t.obuf ∧ SameCells s.ibuf t.ibuf)

/-- Power-on reset as an event of the outside world (R51, R200). That it may come again, and that the records, the
parameters and the later requests stay, is the model's choice (log 11). -/
def Obligations.PowerOnEventResets : Prop :=
  ∀ (s : State) (rest : List HostEvent), s.requests = .powerOn :: rest →
    ∃ t, step s = .next t ∧ t.widx = 0 ∧ t.ridx = 0 ∧ t.len = 0 ∧ t.fstate = .accumulating ∧
      (∀ a, t.obuf.read a = none) ∧ (∀ a, t.ibuf.read a = none) ∧ t.txlog = [] ∧ t.rxlog = [] ∧
      t.responses = s.responses ∧ t.faults = s.faults ∧ t.cfg = s.cfg ∧ t.requests = rest

/-! ### The invariant -/

/-- The invariant holds at reset, on every instance with `2 <= K <= 8`, and at `State.reset`. -/
def Obligations.ResetSatisfiesInvariant : Prop :=
  (∀ c : Config, c.Legal → Inv (State.resetWith c)) ∧ Inv State.reset

/-- Every step keeps the invariant: the indices and `LEN` in their ranges (R32, R33, R38), both buffers in canonical form
with `IBUF[C-1]` never written (R37), every pending cell a byte (R36), the content bytes and none of them `TERM` (R39). -/
def Obligations.StepKeepsInvariant : Prop :=
  ∀ s t : State, Inv s → step s = .next t → Inv t

/-- From every state of the invariant the step answers a next state, never a fault or a refusal, and a command gets
exactly one response at once, in the order issued (10_state.md section 6). Three parts of this are the model's: that an
`RDBUF` of a cell without a value goes on, where the spec lets a model fault (log 5, DESIGN CHOICE); that an illegal word
is a next state (log 4, DEDUCED); and what a step without a command does (log 10, log 11). -/
def Obligations.EveryCommandIsAnswered : Prop :=
  (∀ s : State, Inv s → ∃ t, step s = .next t) ∧
  (∀ (s : State) (cmd : Word) (a : Answers) (rest : List HostEvent), Inv s →
    s.requests = .command cmd a :: rest →
      ∃ t w, step s = .next t ∧ t.responses = s.responses ++ [w] ∧ t.requests = rest ∧
        (w.getLsbD 15 = true ↔ ¬ legal s.cfg cmd))

/-- The parameters never change (10_state.md section 5), and the records of responses and faults only grow; that they do so
across a power-on is the model's choice (log 11). -/
def Obligations.StepKeepsParametersAndRecords : Prop :=
  ∀ s t : State, step s = .next t →
    t.cfg = s.cfg ∧ s.responses <+: t.responses ∧ s.faults <+: t.faults

/-- R36, and that empty and full are never both true (R35). -/
def Obligations.OccupancyCountsPendingBytes : Prop :=
  ∀ s : State, Inv s →
    s.ocount = (s.widx + s.cfg.capacity - s.ridx) % s.cfg.capacity ∧ s.ocount ≤ s.cfg.capacity - 1 ∧
    (s.ocount = 0 ↔ s.widx = s.ridx) ∧
    (s.ocount = s.cfg.capacity - 1 ↔ (s.widx + 1) % s.cfg.capacity = s.ridx) ∧
    ¬ (s.widx = s.ridx ∧ (s.widx + 1) % s.cfg.capacity = s.ridx) ∧
    s.pending.length = s.ocount ∧ (∀ c ∈ s.pending, c.isSome = true) ∧
    (∀ n, n < s.ocount → s.pending[n]? = some (s.obuf.read ((s.ridx + n) % s.cfg.capacity)))

/-! ### The commands -/

/-- R160: `INIT`, in every state. -/
def Obligations.InitResetsIndicesAndFramer : Prop :=
  encode .init = 0x1000#16 ∧
  (∀ (c : Config) (w : Word), opField w = 1 → w ≠ 0x1000#16 → ¬ legal c w) ∧
  (∀ s : State, ∃ t, exec .init s = .next t ∧
    t.widx = 0 ∧ t.ridx = 0 ∧ t.len = 0 ∧ t.fstate = .accumulating ∧ t.pending = [] ∧ t.frame = [] ∧
    SameCells s.obuf t.obuf ∧ SameCells s.ibuf t.ibuf ∧ PeripheralUntouched s t ∧ OutsideKept s t ∧
    t.faults = s.faults ∧ t.responses = s.responses ++ [0x0000#16] ∧
    ∃ u, exec .init t = .next u ∧ BlockKept t u)

/-- R100, R101: `ENQ` on a full channel changes nothing and answers 0x0000; otherwise the byte goes to `OBUF[WIDX]`, `WIDX`
advances, and nothing else changes. -/
def Obligations.EnqStoresOrDrops : Prop :=
  (∀ b : Byte, encode (.enq b) = 0x2000#16 ||| b.setWidth 16) ∧
  (∀ (c : Config) (w : Word), opField w = 2 → rsvField w ≠ 0 → ¬ legal c w) ∧
  (∀ (b : Byte) (s : State), (s.widx + 1) % s.cfg.capacity = s.ridx →
    ∃ t, exec (.enq b) s = .next t ∧ BlockKept s t ∧ t.faults = s.faults ∧
      t.responses = s.responses ++ [0x0000#16]) ∧
  (∀ (b : Byte) (s : State), (s.widx + 1) % s.cfg.capacity ≠ s.ridx → s.widx < s.cfg.capacity →
    ∃ t, exec (.enq b) s = .next t ∧
      t.obuf.read s.widx = some b ∧ SameCellsBut s.widx s.obuf t.obuf ∧
      t.widx = (s.widx + 1) % s.cfg.capacity ∧ t.ridx = s.ridx ∧
      InputKept s t ∧ PeripheralUntouched s t ∧ OutsideKept s t ∧ t.faults = s.faults ∧
      t.responses = s.responses ++ [0x0100#16])

/-- R140: `SVC` does its drain step and its receive step on the peripheral's answers and returns
`(rx << 10) | (tx << 9) | (fr << 8)`; nothing else changes. -/
def Obligations.SvcDrainsAndReceives : Prop :=
  encode .svc = 0x3000#16 ∧
  (∀ (c : Config) (w : Word), opField w = 3 → w ≠ 0x3000#16 → ¬ legal c w) ∧
  (∀ s : State, Inv s → ∃ t tx rx fr, exec .svc s = .next t ∧
    DrainEffect s.periph.txReady s t tx ∧ ReceiveEffect s.periph.rx s t rx fr ∧
    t.responses = s.responses ++ [svcResponse rx tx fr] ∧ t.faults = s.faults ∧ OutsideKept s t)

/-- R104: the drain step on an empty channel changes no state and signals no transmission. -/
def Obligations.DrainOnEmptyDoesNothing : Prop :=
  ∀ (ready : Bool) (s : State), s.widx = s.ridx → drainStep ready s = .ok (false, s)

/-- R121: a consumed `TERM` writes `NUL` to `IBUF[LEN]` at every `LEN`, keeps `LEN`, sets `FSTATE` and signals frame ready;
`IBUF[C-1]` is never written. -/
def Obligations.TerminatorCompletesFrame : Prop :=
  ∀ s : State, Inv s → s.periph.rx = some s.cfg.term →
    ∃ t tx, exec .svc s = .next t ∧ t.ibuf.read s.len = some NUL ∧ SameCellsBut s.len s.ibuf t.ibuf ∧
      t.len = s.len ∧ t.fstate = .frameReady ∧ t.frame = s.frame ∧
      t.ibuf.read (s.cfg.capacity - 1) = none ∧ t.responses = s.responses ++ [svcResponse true tx true]

/-- R122: a consumed byte that is not `TERM` and finds room goes to `IBUF[LEN]`, whatever `FSTATE` is. -/
def Obligations.ByteWithRoomIsAppended : Prop :=
  ∀ (s : State) (b : Byte), Inv s → s.periph.rx = some b → b ≠ s.cfg.term → s.len < s.cfg.capacity - 2 →
    ∃ t tx, exec .svc s = .next t ∧ t.ibuf.read s.len = some b ∧ SameCellsBut s.len s.ibuf t.ibuf ∧
      t.len = s.len + 1 ∧ t.fstate = s.fstate ∧ t.frame = s.frame ++ [some b] ∧
      t.responses = s.responses ++ [svcResponse true tx false]

/-- R123: a consumed byte that is not `TERM` and finds no room is consumed and dropped. -/
def Obligations.ByteWithoutRoomIsDropped : Prop :=
  ∀ (s : State) (b : Byte), Inv s → s.periph.rx = some b → b ≠ s.cfg.term → s.len = s.cfg.capacity - 2 →
    ∃ t tx, exec .svc s = .next t ∧ InputKept s t ∧ t.rxlog = s.rxlog ++ [b] ∧
      t.responses = s.responses ++ [svcResponse true tx false]

/-- R142: `F` of an `SVC` is 1 exactly when this `SVC` consumed `TERM`, whatever `FSTATE` is. -/
def Obligations.FrameReadySignalIsPulse : Prop :=
  ∀ s t : State, exec .svc s = .next t →
    ∃ w, t.responses = s.responses ++ [w] ∧ (w.getLsbD 8 = true ↔ s.periph.rx = some s.cfg.term)

/-- R144: an idle `SVC` changes no state, calls neither `PeriphWrite` nor `PeriphRead`, and returns 0x0000. -/
def Obligations.IdleServiceChangesNothing : Prop :=
  ∀ s : State, s.periph.txReady = false ∨ s.widx = s.ridx → s.periph.rx = none →
    exec .svc s = .next { s with responses := s.responses ++ [0x0000#16] }

/-- R145: the six values of `SVC`'s response; 0x0100 and 0x0300 never occur. -/
def Obligations.ServiceResponseValues : Prop :=
  ∀ s t : State, exec .svc s = .next t →
    ∃ w ∈ [0x0000#16, 0x0200#16, 0x0400#16, 0x0500#16, 0x0600#16, 0x0700#16], t.responses = s.responses ++ [w]

/-- R74: the drain step and the receive step commute: done in either order they give the same bits and the same state. -/
def Obligations.ServiceHalvesCommute : Prop :=
  ∀ (s : State) (a : Answers), Inv s →
    ∃ tx rx fr s1 s2 t,
      drainStep a.txReady s = .ok (tx, s1) ∧ receiveStep a.rx s1 = .ok (rx, fr, t) ∧
      receiveStep a.rx s = .ok (rx, fr, s2) ∧ drainStep a.txReady s2 = .ok (tx, t)

/-- Only `SVC` calls the peripheral (10_state.md section 6): every other command, and every illegal word, leaves `TXLOG` and
`RXLOG` as they were. -/
def Obligations.OnlyServiceCallsPeripheral : Prop :=
  (∀ (i : Instr) (s t : State), i ≠ .svc → exec i s = .next t → PeripheralUntouched s t) ∧
  (∀ (cmd : Word) (s t : State), ¬ legal s.cfg cmd → issue cmd s = .next t → PeripheralUntouched s t)

/-- R56: each `SVC` makes at most one `PeriphWrite` and at most one `PeriphRead`, recorded in the logs and reported in the
bits `TX` and `RX`. -/
def Obligations.ServiceCallsPeripheralAtMostOnce : Prop :=
  ∀ s t : State, exec .svc s = .next t →
    ∃ sent got w, t.txlog = s.txlog ++ sent ∧ t.rxlog = s.rxlog ++ got ∧ sent.length ≤ 1 ∧ got.length ≤ 1 ∧
      t.responses = s.responses ++ [w] ∧
      (w.getLsbD 9 = true ↔ sent.length = 1) ∧ (w.getLsbD 10 = true ↔ got.length = 1)

/-- R126: `CLR`, in every state. -/
def Obligations.ClrClearsOnlyTheFramer : Prop :=
  encode .clr = 0x4000#16 ∧
  (∀ (c : Config) (w : Word), opField w = 4 → w ≠ 0x4000#16 → ¬ legal c w) ∧
  (∀ s : State, ∃ t, exec .clr s = .next t ∧
    t.len = 0 ∧ t.fstate = .accumulating ∧ SameCells s.ibuf t.ibuf ∧ OutputKept s t ∧
    PeripheralUntouched s t ∧ OutsideKept s t ∧ t.faults = s.faults ∧
    t.responses = s.responses ++ [0x0000#16] ∧ ∃ u, exec .clr t = .next u ∧ BlockKept t u)

/-- R132: the first byte received after a `CLR` is the whole content; the old bytes at indices 1 and above stay in `IBUF`
but are no content. -/
def Obligations.FirstByteAfterClearIsWholeContent : Prop :=
  ∀ (s : State) (b : Byte) (ready : Bool), Inv s → b ≠ s.cfg.term →
    ∃ t u, exec .clr s = .next t ∧ exec .svc { t with periph := { txReady := ready, rx := some b } } = .next u ∧
      u.len = 1 ∧ u.frame = [some b] ∧ ∀ n, 1 ≤ n → u.ibuf.read n = s.ibuf.read n

/-- `RDBUF i` at a cell that holds a byte returns it and changes nothing (41_input_framer.md section 4). -/
def Obligations.RdbufReturnsTheByte : Prop :=
  ∀ (s : State) (ix b : Byte), ix.toNat < s.cfg.capacity → s.ibuf.read ix.toNat = some b →
    ∃ t, exec (.rdbuf ix) s = .next t ∧ BlockKept s t ∧ t.faults = s.faults ∧
      t.responses = s.responses ++ [b.setWidth 16]

/-- `RDBUF i` at a cell that holds no value: `ERR`, `RX`, `TX` and `F` are 0, `DATA` is a free byte, the same on a
repetition, no state changes, and the model fault is recorded. That the machine goes on is the model's reading (log 5), and
so is the free byte (log 6). `RDBUF C-1` always does this in a reachable state. -/
def Obligations.RdbufOfCellWithoutValue : Prop :=
  (∀ (s : State) (ix : Byte), ix.toNat < s.cfg.capacity → s.ibuf.read ix.toNat = none →
    ∃ t u w, exec (.rdbuf ix) s = .next t ∧ BlockKept s t ∧
      t.faults = s.faults ++ [.unwrittenRead .ibuf ix.toNat] ∧
      t.responses = s.responses ++ [w] ∧ w.extractLsb' 8 8 = 0#8 ∧
      exec (.rdbuf ix) t = .next u ∧ u.responses = t.responses ++ [w]) ∧
  (∀ s : State, Inv s → s.ibuf.read (s.cfg.capacity - 1) = none)

/-- R44 to R49: `RDREG` returns the register's value and changes nothing; and the registers' values after
power-on reset. -/
def Obligations.RdregReadsRegisterView : Prop :=
  (∀ (s : State) (r : Reg), Inv s →
    ∃ t v, exec (.rdreg r) s = .next t ∧ BlockKept s t ∧ t.faults = s.faults ∧
      t.responses = s.responses ++ [v.setWidth 16] ∧
      match r with
      | .widx => v.toNat = s.widx
      | .ridx => v.toNat = s.ridx
      | .len => v.toNat = s.len
      | .status =>
        (v.getLsbD 0 = true ↔ s.widx = s.ridx) ∧
          (v.getLsbD 1 = true ↔ (s.widx + 1) % s.cfg.capacity = s.ridx) ∧
          (v.getLsbD 2 = true ↔ s.fstate = .frameReady) ∧ v.extractLsb' 3 5 = 0#5
      | .caplog => v.toNat = s.cfg.k
      | .termreg => v = s.cfg.term
      | .ocount => v.toNat = (s.widx + s.cfg.capacity - s.ridx) % s.cfg.capacity) ∧
  (∀ (c : Config) (r : Reg), c.Legal →
    ∃ t v, exec (.rdreg r) (State.resetWith c) = .next t ∧ t.responses = [v] ∧
      match r with
      | .widx => v = 0x0000#16
      | .ridx => v = 0x0000#16
      | .len => v = 0x0000#16
      | .status => v = 0x0001#16
      | .caplog => v.toNat = c.k
      | .termreg => v = c.term.setWidth 16
      | .ocount => v = 0x0000#16)

/-! ### Rules about all commands -/

/-- R50: no command changes a register or a buffer but its listed writers. -/
def Obligations.OnlyListedWritersChangeState : Prop :=
  ∀ (i : Instr) (s t : State), exec i s = .next t →
    (t.widx ≠ s.widx → i = .init ∨ ∃ b, i = .enq b ∧ (s.widx + 1) % s.cfg.capacity ≠ s.ridx) ∧
    (t.ridx ≠ s.ridx → i = .init ∨ i = .svc) ∧
    (t.len ≠ s.len → i = .init ∨ i = .clr ∨ i = .svc) ∧
    (t.fstate ≠ s.fstate → i = .init ∨ i = .clr ∨ i = .svc) ∧
    (¬ SameCells s.obuf t.obuf → ∃ b, i = .enq b) ∧
    (¬ SameCells s.ibuf t.ibuf → i = .svc)

/-- Repeating `RDBUF` or `RDREG` returns the same response and leaves the state unchanged; `ENQ`, `CLR` and `INIT` do not
touch the peripheral; `CLR` or `INIT` twice leaves what once left (20_memory.md section 2). At a cell without a value it is
the model's choice that `RDBUF` goes on (log 5) and in what form the byte is free and yet the same again (log 6); at an
index `>= C`, which no word decodes to, that the term takes the illegal-command outcome (log 9). -/
def Obligations.ReadsRepeatAndClearsAreIdempotent : Prop :=
  (∀ (i : Instr) (s t : State), (∃ ix, i = .rdbuf ix) ∨ (∃ r, i = .rdreg r) → exec i s = .next t →
    BlockKept s t ∧ ∃ u w, exec i t = .next u ∧ t.responses = s.responses ++ [w] ∧
      u.responses = t.responses ++ [w] ∧ BlockKept s u) ∧
  (∀ (i : Instr) (s t : State), i = .init ∨ i = .clr ∨ (∃ b, i = .enq b) → exec i s = .next t →
    PeripheralUntouched s t) ∧
  (∀ (i : Instr) (s t : State), i = .init ∨ i = .clr → exec i s = .next t →
    ∃ u, exec i t = .next u ∧ BlockKept t u)

/-- A cell that holds a byte holds one after every command (10_state.md sections 2 and 3): only power-on empties a cell. -/
def Obligations.WrittenCellsStayWritten : Prop :=
  ∀ (i : Instr) (s t : State) (a : Nat), exec i s = .next t →
    ((s.obuf.read a).isSome = true → (t.obuf.read a).isSome = true) ∧
    ((s.ibuf.read a).isSome = true → (t.ibuf.read a).isSome = true)

/-- Each command returns one response (30_encoding.md section 1); a field that is not the command's is 0, bits 14 to 11 are 0, and
`ERR` is 0 for a legal command; an illegal word's response has `ERR` alone. -/
def Obligations.ResponseFieldsBelongToTheirCommands : Prop :=
  (∀ (i : Instr) (s t : State), i.wellFormed s.cfg = true → exec i s = .next t →
    ∃ w, t.responses = s.responses ++ [w] ∧ w.getLsbD 15 = false ∧ w.extractLsb' 11 4 = 0#4 ∧
      (w.getLsbD 8 = true → i = .svc ∨ ∃ b, i = .enq b) ∧
      (w.getLsbD 9 = true → i = .svc) ∧ (w.getLsbD 10 = true → i = .svc) ∧
      (w.extractLsb' 0 8 ≠ 0#8 → (∃ ix, i = .rdbuf ix) ∨ ∃ r, i = .rdreg r)) ∧
  (∀ (cmd : Word) (s t : State), ¬ legal s.cfg cmd → issue cmd s = .next t →
    t.responses = s.responses ++ [0x8000#16])

/-- Legal commands raise nothing (60_exceptions.md section 1); the one record a legal command makes is that of `RDBUF` at a
cell without a value, the model's reading (log 5), and then the response still has `ERR = 0`. -/
def Obligations.LegalCommandsRaiseNothing : Prop :=
  ∀ (i : Instr) (s t : State), i.wellFormed s.cfg = true → exec i s = .next t →
    (t.faults = s.faults ∨
      ∃ ix, i = .rdbuf ix ∧ s.ibuf.read ix.toNat = none ∧
        t.faults = s.faults ++ [.unwrittenRead .ibuf ix.toNat]) ∧
    ∃ w, t.responses = s.responses ++ [w] ∧ w.getLsbD 15 = false

/-- No data-path operation reads `FSTATE` (10_state.md section 3). With another `FSTATE` every command but `RDREG STATUS` does the same, up to
`FSTATE` itself, which it then either sets to the same value or keeps. At a cell without a value it is the model's choice
that `RDBUF` goes on (log 5) and that its free byte is the same in both states (log 6); at an index `>= C`, which no word
decodes to, that the term takes the illegal-command outcome (log 9). -/
def Obligations.FrameStateIsNotRead : Prop :=
  ∀ (i : Instr) (s t : State) (f : FState), i ≠ .rdreg .status → exec i s = .next t →
    ∃ t', exec i { s with fstate := f } = .next t' ∧ t' = { t with fstate := t'.fstate } ∧
      (t'.fstate = t.fstate ∨ (t.fstate = s.fstate ∧ t'.fstate = f))

/-- No command reads `TXLOG` and `RXLOG` (R42), an earlier command's response (R43) or the recorded faults (10_state.md
section 4): with others in their place a command does the same, and adds the same to each. That the responses and the faults
are kept as such lists is the model's (log 12, log 4). At a cell without a value it is the model's choice that `RDBUF` goes
on (log 5) and that its free byte is the same in both states (log 6); at an index `>= C`, which no word decodes to, that the
term takes the illegal-command outcome (log 9). -/
def Obligations.LogsAreNotRead : Prop :=
  ∀ (i : Instr) (s t : State) (tx rx : List Byte) (rs : List Word) (fs : List Fault), exec i s = .next t →
    ∃ tx' rx' rs' fs',
      t.txlog = s.txlog ++ tx' ∧ t.rxlog = s.rxlog ++ rx' ∧ t.responses = s.responses ++ rs' ∧
      t.faults = s.faults ++ fs' ∧
      exec i { s with txlog := tx, rxlog := rx, responses := rs, faults := fs } =
        .next { t with txlog := tx ++ tx', rxlog := rx ++ rx', responses := rs ++ rs', faults := fs ++ fs' }

/-- The host cannot read `OBUF` (20_memory.md section 1): what the cells hold reaches no response and no state but the
peripheral's `TXLOG`. At a cell of `IBUF` without a value it is the model's choice that `RDBUF` goes on (log 5) and that its
free byte is the same in both states (log 6); at an index `>= C`, which no word decodes to, that the term takes the
illegal-command outcome (log 9). -/
def Obligations.OutputBufferIsNotReadable : Prop :=
  ∀ (i : Instr) (s t u : State) (m : Memory), exec i s = .next t → exec i { s with obuf := m } = .next u →
    u.responses = t.responses ∧ u = { t with obuf := u.obuf, txlog := u.txlog }

/-! ### Sequences of commands -/

/-- Over any sequence of commands without `INIT` and power-on (40_output_channel.md section 4), the transmitted bytes followed by the pending ones are
the former ones followed by the accepted ones; from an empty channel, what `TXLOG` gains is a prefix of the accepted
bytes, in acceptance order. That such a run goes on past an illegal word (log 4) and past an `RDBUF` of a cell without a
value (log 5) is the model's choice. -/
def Obligations.BytesLeaveInAcceptanceOrder : Prop :=
  ∀ (n : Nat) (s : State), Inv s → n ≤ s.requests.length →
    (∀ e ∈ s.requests.take n, keepsPending s.cfg e = true) →
    ∃ t ws, runFor n s = .next t ∧ ws.length = n ∧ t.responses = s.responses ++ ws ∧
      t.txlog.map some ++ t.pending =
        s.txlog.map some ++ s.pending ++ (acceptedBytes s.cfg (s.requests.take n) ws).map some ∧
      (s.widx = s.ridx →
        ∃ sent, t.txlog = s.txlog ++ sent ∧ sent <+: acceptedBytes s.cfg (s.requests.take n) ws)

/-- R105: of a sequence of `ENQ`s exactly the first `C - 1 - OCOUNT` are accepted and every later one is dropped; the
accepted bytes stay in order behind the earlier pending ones. -/
def Obligations.EnqueueSequenceFillsToCapacity : Prop :=
  ∀ (bs : List (Byte × Answers)) (rest : List HostEvent) (s : State), Inv s →
    s.requests = bs.map (fun p => request (.enq p.1) p.2) ++ rest →
    ∃ t, runFor bs.length s = .next t ∧ t.requests = rest ∧
      t.pending = s.pending ++ ((bs.map Prod.fst).take (s.cfg.capacity - 1 - s.ocount)).map some ∧
      t.responses = s.responses ++
        List.replicate (min bs.length (s.cfg.capacity - 1 - s.ocount)) 0x0100#16 ++
        List.replicate (bs.length - (s.cfg.capacity - 1 - s.ocount)) 0x0000#16 ∧
      InputKept s t ∧ PeripheralUntouched s t

/-- A byte accepted when `OCOUNT = n` is transmitted by the `(n+1)`-th later `SVC` whose `tx_ready = 1`, and by no
earlier one, whatever else is issued between, provided no `INIT` (and no power-on) comes first (40_output_channel.md
section 4). That the run goes on past an illegal word (log 4) and past an `RDBUF` of a cell without a value (log 5) is the
model's choice. -/
def Obligations.AcceptedByteIsDeliveredInPosition : Prop :=
  ∀ (s u : State) (b : Byte) (m : Nat), Inv s → (s.widx + 1) % s.cfg.capacity ≠ s.ridx →
    exec (.enq b) s = .next u → m ≤ u.requests.length →
    (∀ e ∈ u.requests.take m, keepsPending u.cfg e = true) →
    ∃ v, runFor m u = .next v ∧
      ((u.requests.take m).countP (isReadyService u.cfg) ≤ s.ocount →
        v.txlog.length = u.txlog.length + (u.requests.take m).countP (isReadyService u.cfg)) ∧
      (s.ocount < (u.requests.take m).countP (isReadyService u.cfg) →
        v.txlog[u.txlog.length + s.ocount]? = some b)

/-- R131, R133: bytes that are not `TERM`, received one per `SVC` and followed by `TERM`, give the frame of
the earlier content followed by the new bytes, cut to `C - 2`: from `LEN = 0` the bytes alone, and after an uncleared frame
the old frame continued. `NUL` stands at `IBUF[LEN]`, and the last response signals frame ready. The drain steps of the same
`SVC`s may do what they do. -/
def Obligations.ReceivedBytesBecomeFrame : Prop :=
  ∀ (bs : List (Byte × Bool)) (ready : Bool) (rest : List HostEvent) (s : State), Inv s →
    (∀ p ∈ bs, p.1 ≠ s.cfg.term) →
    s.requests = bs.map (fun p => request .svc { txReady := p.2, rx := some p.1 }) ++
      request .svc { txReady := ready, rx := some s.cfg.term } :: rest →
    ∃ t w, runFor (bs.length + 1) s = .next t ∧ t.requests = rest ∧
      t.frame = (s.frame ++ bs.map fun p => some p.1).take (s.cfg.capacity - 2) ∧
      t.len = min (s.len + bs.length) (s.cfg.capacity - 2) ∧ t.ibuf.read t.len = some NUL ∧
      t.fstate = .frameReady ∧ t.rxlog = s.rxlog ++ bs.map Prod.fst ++ [s.cfg.term] ∧
      t.responses.getLast? = some w ∧ w.getLsbD 8 = true ∧ w.getLsbD 10 = true

/-- R128: an `SVC` with `F = 1` leaves the completed frame in `IBUF[0 .. LEN-1]` with `NUL` at `IBUF[LEN]`, and every command
but an `SVC` that appends a byte, a `CLR` or an `INIT` leaves the frame, `LEN` and that `NUL`. -/
def Obligations.FrameIsHeldUntilAppendOrClear : Prop :=
  (∀ s : State, Inv s → s.periph.rx = some s.cfg.term →
    ∃ t, exec .svc s = .next t ∧ t.frame = s.frame ∧ t.frame.length = t.len ∧
      (∀ c ∈ t.frame, c.isSome = true) ∧ t.ibuf.read t.len = some NUL) ∧
  (∀ (i : Instr) (s t : State), exec i s = .next t → s.ibuf.read s.len = some NUL →
    i ≠ .clr → i ≠ .init →
    (i = .svc → ∀ b, s.periph.rx = some b → b = s.cfg.term ∨ ¬ s.len < s.cfg.capacity - 2) →
    t.len = s.len ∧ t.frame = s.frame ∧ t.ibuf.read t.len = some NUL)
end

