-- ==== Sys2Proof/Laws/Decode.lean ====
section
/-! SUPPORT. The fields of command words, register numbers, and what each form of decoding can answer. -/

namespace Sys2Proof

/-! ### Fields -/

@[simp] theorem opField_commandWord (op : BitVec 4) (imm : Byte) : opField (commandWord op imm) = op := by
  simp only [opField, commandWord]
  ext i
  simp
  grind

@[simp] theorem rsvField_commandWord (op : BitVec 4) (imm : Byte) : rsvField (commandWord op imm) = 0 := by
  simp only [rsvField, commandWord]
  ext i
  simp
  grind

@[simp] theorem immField_commandWord (op : BitVec 4) (imm : Byte) : immField (commandWord op imm) = imm := by
  simp only [immField, commandWord]
  ext i
  simp
  grind

/-- A word is its three fields (30_encoding.md R80). -/
theorem word_eq_fields (w : Word) : w = opField w ++ rsvField w ++ immField w := by
  simp only [opField, rsvField, immField]
  ext i
  simp
  grind

/-- A word whose reserved field is 0 is the command word of its other two fields. -/
theorem commandWord_fields (w : Word) (h : rsvField w = 0) : commandWord (opField w) (immField w) = w := by
  have hw := word_eq_fields w
  rw [h] at hw
  exact hw.symm

/-! ### Register numbers -/

@[simp] theorem regOfNumber_regNumber (r : Reg) : regOfNumber (regNumber r) = some r := by cases r <;> rfl

/-- The register numbers are 0 to 6 (10_state.md section 5). -/
theorem regNumber_le (r : Reg) : (regNumber r).toNat ≤ 6 := by cases r <;> decide

theorem regOfNumber_eq_some (n : Byte) (r : Reg) : regOfNumber n = some r ↔ n = regNumber r := by
  constructor
  · intro h
    apply BitVec.eq_of_toNat_eq
    unfold regOfNumber at h
    split at h <;> first | (cases h; assumption) | cases h
  · rintro rfl
    exact regOfNumber_regNumber r

theorem regOfNumber_isSome (n : Byte) : (regOfNumber n).isSome = true ↔ n.toNat ≤ 6 := by
  constructor
  · intro h
    obtain ⟨r, hr⟩ := Option.isSome_iff_exists.1 h
    rw [(regOfNumber_eq_some n r).1 hr]
    exact regNumber_le r
  · unfold regOfNumber
    generalize n.toNat = k
    intro h
    interval_cases k <;> rfl

/-! ### Decoding, form by form -/

theorem decodePlain_eq_ok (i j : Instr) (imm : Byte) : decodePlain i imm = .ok j ↔ imm = 0 ∧ j = i := by
  unfold decodePlain
  split
  · next h => simp [h, @eq_comm _ i j]
  · next h => exact ⟨fun e => (nomatch e), fun e => absurd e.1 h⟩

theorem decodeRdbuf_eq_ok (c : Config) (imm : Byte) (j : Instr) :
    decodeRdbuf c imm = .ok j ↔ imm.toNat < c.capacity ∧ j = .rdbuf imm := by
  unfold decodeRdbuf
  split
  · next h => simp [h, @eq_comm _ _ j]
  · next h => simp [h]

theorem decodeRdreg_eq_ok (imm : Byte) (j : Instr) :
    decodeRdreg imm = .ok j ↔ ∃ r, imm = regNumber r ∧ j = .rdreg r := by
  unfold decodeRdreg
  constructor
  · split
    · next r h =>
      intro hj
      exact ⟨r, (regOfNumber_eq_some imm r).1 h, (Except.ok.inj hj).symm⟩
    · intro hj
      cases hj
  · rintro ⟨r, rfl, rfl⟩
    simp

/-- Everything `decode` accepts: the reserved field is 0 and one of the six forms holds. -/
theorem decode_ok_cases (c : Config) (w : Word) (i : Instr) (h : decode c w = .ok i) :
    rsvField w = 0 ∧
      ((opField w = 1 ∧ immField w = 0 ∧ i = .init) ∨
       (opField w = 2 ∧ i = .enq (immField w)) ∨
       (opField w = 3 ∧ immField w = 0 ∧ i = .svc) ∨
       (opField w = 4 ∧ immField w = 0 ∧ i = .clr) ∨
       (opField w = 5 ∧ (immField w).toNat < c.capacity ∧ i = .rdbuf (immField w)) ∨
       (opField w = 6 ∧ ∃ r, immField w = regNumber r ∧ i = .rdreg r)) := by
  have op : ∀ n : Nat, (opField w).toNat = n → opField w = BitVec.ofNat 4 n := by
    intro n hn
    rw [← hn, BitVec.ofNat_toNat, BitVec.setWidth_eq]
  unfold decode at h
  split at h
  · cases h
  · next hr =>
    refine ⟨by simpa using hr, ?_⟩
    split at h
    · next ho => exact .inl ⟨op 1 ho, (decodePlain_eq_ok _ _ _).1 h⟩
    · next ho => exact .inr (.inl ⟨op 2 ho, (Except.ok.inj h).symm⟩)
    · next ho => exact .inr (.inr (.inl ⟨op 3 ho, (decodePlain_eq_ok _ _ _).1 h⟩))
    · next ho => exact .inr (.inr (.inr (.inl ⟨op 4 ho, (decodePlain_eq_ok _ _ _).1 h⟩)))
    · next ho => exact .inr (.inr (.inr (.inr (.inl ⟨op 5 ho, (decodeRdbuf_eq_ok _ _ _).1 h⟩))))
    · next ho => exact .inr (.inr (.inr (.inr (.inr ⟨op 6 ho, (decodeRdreg_eq_ok _ _).1 h⟩))))
    · cases h

end Sys2Proof
end

