-- ==== Sys2Proof/Laws/Flags.lean ====
section
/-! SUPPORT. The capacity, the indices, and the bits of the response word and of STATUS. -/

namespace Sys2Proof.Machine

/-! ### Capacity and indices -/

theorem capacity_pos (c : Config) : 0 < c.capacity := Nat.two_pow_pos c.k

/-- `4 <= C <= 256` (00_scope.md R6). -/
theorem capacity_bounds (c : Config) (h : c.Legal) : 4 ≤ c.capacity ∧ c.capacity ≤ 256 := by
  obtain ⟨h2, h8⟩ := h
  unfold Config.capacity
  constructor
  · calc 4 = 2 ^ 2 := rfl
      _ ≤ 2 ^ c.k := Nat.pow_le_pow_right (by omega) h2
  · calc 2 ^ c.k ≤ 2 ^ 8 := Nat.pow_le_pow_right (by omega) h8
      _ = 256 := rfl

theorem nextIndex_lt (c : Config) (x : Nat) : nextIndex c x < c.capacity := Nat.mod_lt _ (capacity_pos c)

/-- The increment of an index in range, without `mod`: it wraps from `C - 1` to 0. -/
theorem nextIndex_eq (c : Config) (x : Nat) (h : x < c.capacity) :
    nextIndex c x = if x + 1 = c.capacity then 0 else x + 1 := by
  unfold nextIndex
  split
  · next h' => rw [h', Nat.mod_self]
  · exact Nat.mod_eq_of_lt (by omega)

theorem oempty_iff (s : State) : s.oempty = true ↔ s.widx = s.ridx := by simp [State.oempty]

theorem ofull_iff (s : State) : s.ofull = true ↔ (s.widx + 1) % s.cfg.capacity = s.ridx := by
  unfold State.ofull nextIndex
  exact decide_eq_true_iff

theorem ocount_lt (s : State) : s.ocount < s.cfg.capacity := Nat.mod_lt _ (capacity_pos s.cfg)

/-- The occupancy of indices in range, without `mod`. -/
theorem ocount_eq (s : State) (hw : s.widx < s.cfg.capacity) (hr : s.ridx < s.cfg.capacity) :
    s.ocount = if s.ridx ≤ s.widx then s.widx - s.ridx else s.widx + s.cfg.capacity - s.ridx := by
  unfold State.ocount
  split
  · next h =>
    rw [show s.widx + s.cfg.capacity - s.ridx = (s.widx - s.ridx) + s.cfg.capacity by omega, Nat.add_mod_right]
    exact Nat.mod_eq_of_lt (by omega)
  · exact Nat.mod_eq_of_lt (by omega)

theorem toNat_zext8 (n : Nat) (h : n < 256) : (zext8 n).toNat = n := by
  simp [zext8, Nat.mod_eq_of_lt h]

/-! ### STATUS (10_state.md R48) -/

theorem status_oempty (s : State) : s.status.getLsbD 0 = s.oempty := by
  cases h : s.oempty <;> cases h' : s.ofull <;> cases h'' : s.fstate <;> simp [State.status, h, h', h''] <;> decide

theorem status_ofull (s : State) : s.status.getLsbD 1 = s.ofull := by
  cases h : s.oempty <;> cases h' : s.ofull <;> cases h'' : s.fstate <;> simp [State.status, h, h', h''] <;> decide

theorem status_fstate (s : State) : s.status.getLsbD 2 = s.fstate.bit := by
  cases h : s.oempty <;> cases h' : s.ofull <;> cases h'' : s.fstate <;> simp [State.status, h, h', h''] <;> decide

theorem status_reserved (s : State) : s.status.extractLsb' 3 5 = 0#5 := by
  cases h : s.oempty <;> cases h' : s.ofull <;> cases h'' : s.fstate <;> simp [State.status, h, h', h''] <;> decide

/-! ### The response word (30_encoding.md R81) -/

@[simp] theorem toWord_data (r : Response) : r.toWord.extractLsb' 0 8 = r.data := by
  simp only [Response.toWord]
  ext i
  simp
  grind

@[simp] theorem toWord_f (r : Response) : r.toWord.getLsbD 8 = r.f := by
  simp only [Response.toWord, BitVec.getLsbD_append]
  simp

@[simp] theorem toWord_tx (r : Response) : r.toWord.getLsbD 9 = r.tx := by
  simp only [Response.toWord, BitVec.getLsbD_append]
  simp

@[simp] theorem toWord_rx (r : Response) : r.toWord.getLsbD 10 = r.rx := by
  simp only [Response.toWord, BitVec.getLsbD_append]
  simp

@[simp] theorem toWord_err (r : Response) : r.toWord.getLsbD 15 = r.err := by
  simp only [Response.toWord, BitVec.getLsbD_append]
  simp

@[simp] theorem toWord_zero (r : Response) : r.toWord.extractLsb' 11 4 = 0#4 := by
  simp only [Response.toWord]
  ext i
  simp
  grind

/-- A response with `DATA` alone is the zero-extended byte (R127, R161). -/
theorem toWord_data_only (b : Byte) : Response.toWord { data := b } = b.setWidth 16 := by
  simp only [Response.toWord]
  ext i
  simp
  grind

end Sys2Proof.Machine
end

