-- ==== Sys2Proof/Laws/Memory.lean ====
section
/-! SUPPORT. The laws of byte buffers: what a write does to every read, that it keeps the canonical form, and what the
bound of a buffer says of its cells. -/

namespace Sys2Proof.Machine

@[simp] theorem Memory.read_nil (i : Nat) : Memory.read [] i = none := rfl

@[simp] theorem Memory.read_cons (a : Nat) (v : Byte) (m : Memory) (i : Nat) :
    Memory.read ((a, v) :: m) i = if a = i then some v else m.read i := rfl

/-- Everything a write does: cell `i` holds `b`, every other cell reads as before. No canonical form is needed. -/
theorem Memory.read_write (m : Memory) (i : Nat) (b : Byte) (j : Nat) :
    (m.write i b).read j = if i = j then some b else m.read j := by
  induction m with
  | nil => simp [Memory.write]
  | cons c m ih =>
    obtain ⟨a, v⟩ := c
    unfold Memory.write
    split
    · simp
    · split
      · subst_vars; simp only [Memory.read_cons]; split <;> rfl
      · simp only [Memory.read_cons, ih]
        split
        · next h => subst h; split
                    · next h' => omega
                    · rfl
        · rfl

@[simp] theorem Memory.read_write_same (m : Memory) (i : Nat) (b : Byte) : (m.write i b).read i = some b := by
  simp [Memory.read_write]

theorem Memory.read_write_other (m : Memory) {i j : Nat} (b : Byte) (h : j ≠ i) :
    (m.write i b).read j = m.read j := by
  rw [Memory.read_write, if_neg (Ne.symm h)]

/-- A write never empties a cell. -/
theorem Memory.isSome_read_write (m : Memory) (i : Nat) (b : Byte) (j : Nat) (h : (m.read j).isSome = true) :
    ((m.write i b).read j).isSome = true := by
  rw [Memory.read_write]; split <;> simp_all

/-- A write above `lo` keeps the indices rising from `lo`. -/
theorem Memory.risesFrom_write (m : Memory) (lo i : Nat) (b : Byte) (hlo : lo < i) (h : m.risesFrom lo = true) :
    (m.write i b).risesFrom lo = true := by
  induction m generalizing lo with
  | nil => simp [Memory.write, Memory.risesFrom, hlo]
  | cons c m ih =>
    obtain ⟨a, v⟩ := c
    simp only [Memory.risesFrom, Bool.and_eq_true, decide_eq_true_eq] at h
    unfold Memory.write
    split
    · next hia => simp [Memory.risesFrom, hlo, hia, h.2]
    · split
      · next hia => subst hia; simp [Memory.risesFrom, hlo, h.2]
      · next h1 h2 =>
        simp only [Memory.risesFrom, Bool.and_eq_true, decide_eq_true_eq]
        exact ⟨h.1, ih a (by omega) h.2⟩

/-- Every write keeps the canonical form. -/
theorem Memory.wf_write (m : Memory) (i : Nat) (b : Byte) (h : m.wf = true) : (m.write i b).wf = true := by
  cases m with
  | nil => rfl
  | cons c m =>
    obtain ⟨a, v⟩ := c
    unfold Memory.write
    split
    · next hia => simpa [Memory.wf, Memory.risesFrom, hia] using h
    · split
      · next hia => subst hia; exact h
      · next h1 h2 => exact Memory.risesFrom_write m a i b (by omega) h

/-- The empty buffer is in canonical form and below every bound. -/
@[simp] theorem Memory.wf_nil : Memory.wf [] = true := rfl
@[simp] theorem Memory.below_nil (n : Nat) : Memory.below n [] = true := rfl

/-- A write below a bound keeps the buffer below it. -/
theorem Memory.below_write (m : Memory) (n i : Nat) (b : Byte) (hi : i < n) (h : m.below n = true) :
    (m.write i b).below n = true := by
  induction m with
  | nil => simp [Memory.write, Memory.below, hi]
  | cons c m ih =>
    obtain ⟨a, v⟩ := c
    simp only [Memory.below, List.all_cons, Bool.and_eq_true, decide_eq_true_eq] at h ih ⊢
    unfold Memory.write
    split
    · simp [hi, h]
    · split
      · simp [hi, h]
      · simp only [List.all_cons, Bool.and_eq_true, decide_eq_true_eq]
        exact ⟨h.1, ih h.2⟩

/-- A buffer below a bound holds no value at or above it. -/
theorem Memory.read_eq_none_of_below (m : Memory) (n i : Nat) (h : m.below n = true) (hi : n ≤ i) : m.read i = none := by
  induction m with
  | nil => rfl
  | cons c m ih =>
    obtain ⟨a, v⟩ := c
    simp only [Memory.below, List.all_cons, Bool.and_eq_true, decide_eq_true_eq] at h ih
    rw [Memory.read_cons, if_neg (by omega), ih h.2]

end Sys2Proof.Machine
end

