-- ==== Sys2Proof/Laws/State.lean ====
section
/-! SUPPORT. What each named update of the state does to each field, so that no proof unfolds a record update. -/

namespace Sys2Proof.Machine

/-! ### periphWrite -/

@[simp] theorem State.periphWrite_cfg (s : State) (b : Byte) : (s.periphWrite b).cfg = s.cfg := rfl
@[simp] theorem State.periphWrite_obuf (s : State) (b : Byte) : (s.periphWrite b).obuf = s.obuf := rfl
@[simp] theorem State.periphWrite_widx (s : State) (b : Byte) : (s.periphWrite b).widx = s.widx := rfl
@[simp] theorem State.periphWrite_ridx (s : State) (b : Byte) : (s.periphWrite b).ridx = s.ridx := rfl
@[simp] theorem State.periphWrite_ibuf (s : State) (b : Byte) : (s.periphWrite b).ibuf = s.ibuf := rfl
@[simp] theorem State.periphWrite_len (s : State) (b : Byte) : (s.periphWrite b).len = s.len := rfl
@[simp] theorem State.periphWrite_fstate (s : State) (b : Byte) : (s.periphWrite b).fstate = s.fstate := rfl
@[simp] theorem State.periphWrite_txlog (s : State) (b : Byte) : (s.periphWrite b).txlog = s.txlog ++ [b] := rfl
@[simp] theorem State.periphWrite_rxlog (s : State) (b : Byte) : (s.periphWrite b).rxlog = s.rxlog := rfl
@[simp] theorem State.periphWrite_responses (s : State) (b : Byte) : (s.periphWrite b).responses = s.responses := rfl
@[simp] theorem State.periphWrite_faults (s : State) (b : Byte) : (s.periphWrite b).faults = s.faults := rfl
@[simp] theorem State.periphWrite_requests (s : State) (b : Byte) : (s.periphWrite b).requests = s.requests := rfl
@[simp] theorem State.periphWrite_periph (s : State) (b : Byte) : (s.periphWrite b).periph = s.periph := rfl
@[simp] theorem State.periphWrite_powerOns (s : State) (b : Byte) : (s.periphWrite b).powerOns = s.powerOns := rfl

/-! ### periphRead -/

@[simp] theorem State.periphRead_cfg (s : State) (b : Byte) : (s.periphRead b).cfg = s.cfg := rfl
@[simp] theorem State.periphRead_obuf (s : State) (b : Byte) : (s.periphRead b).obuf = s.obuf := rfl
@[simp] theorem State.periphRead_widx (s : State) (b : Byte) : (s.periphRead b).widx = s.widx := rfl
@[simp] theorem State.periphRead_ridx (s : State) (b : Byte) : (s.periphRead b).ridx = s.ridx := rfl
@[simp] theorem State.periphRead_ibuf (s : State) (b : Byte) : (s.periphRead b).ibuf = s.ibuf := rfl
@[simp] theorem State.periphRead_len (s : State) (b : Byte) : (s.periphRead b).len = s.len := rfl
@[simp] theorem State.periphRead_fstate (s : State) (b : Byte) : (s.periphRead b).fstate = s.fstate := rfl
@[simp] theorem State.periphRead_txlog (s : State) (b : Byte) : (s.periphRead b).txlog = s.txlog := rfl
@[simp] theorem State.periphRead_rxlog (s : State) (b : Byte) : (s.periphRead b).rxlog = s.rxlog ++ [b] := rfl
@[simp] theorem State.periphRead_responses (s : State) (b : Byte) : (s.periphRead b).responses = s.responses := rfl
@[simp] theorem State.periphRead_faults (s : State) (b : Byte) : (s.periphRead b).faults = s.faults := rfl
@[simp] theorem State.periphRead_requests (s : State) (b : Byte) : (s.periphRead b).requests = s.requests := rfl
@[simp] theorem State.periphRead_periph (s : State) (b : Byte) : (s.periphRead b).periph = s.periph := rfl
@[simp] theorem State.periphRead_powerOns (s : State) (b : Byte) : (s.periphRead b).powerOns = s.powerOns := rfl

/-! ### respond -/

@[simp] theorem State.respond_cfg (s : State) (r : Response) : (s.respond r).cfg = s.cfg := rfl
@[simp] theorem State.respond_obuf (s : State) (r : Response) : (s.respond r).obuf = s.obuf := rfl
@[simp] theorem State.respond_widx (s : State) (r : Response) : (s.respond r).widx = s.widx := rfl
@[simp] theorem State.respond_ridx (s : State) (r : Response) : (s.respond r).ridx = s.ridx := rfl
@[simp] theorem State.respond_ibuf (s : State) (r : Response) : (s.respond r).ibuf = s.ibuf := rfl
@[simp] theorem State.respond_len (s : State) (r : Response) : (s.respond r).len = s.len := rfl
@[simp] theorem State.respond_fstate (s : State) (r : Response) : (s.respond r).fstate = s.fstate := rfl
@[simp] theorem State.respond_txlog (s : State) (r : Response) : (s.respond r).txlog = s.txlog := rfl
@[simp] theorem State.respond_rxlog (s : State) (r : Response) : (s.respond r).rxlog = s.rxlog := rfl
@[simp] theorem State.respond_responses (s : State) (r : Response) : (s.respond r).responses = s.responses ++ [r.toWord] := rfl
@[simp] theorem State.respond_faults (s : State) (r : Response) : (s.respond r).faults = s.faults := rfl
@[simp] theorem State.respond_requests (s : State) (r : Response) : (s.respond r).requests = s.requests := rfl
@[simp] theorem State.respond_periph (s : State) (r : Response) : (s.respond r).periph = s.periph := rfl
@[simp] theorem State.respond_powerOns (s : State) (r : Response) : (s.respond r).powerOns = s.powerOns := rfl

/-! ### recordFault -/

@[simp] theorem State.recordFault_cfg (s : State) (f : Fault) : (s.recordFault f).cfg = s.cfg := rfl
@[simp] theorem State.recordFault_obuf (s : State) (f : Fault) : (s.recordFault f).obuf = s.obuf := rfl
@[simp] theorem State.recordFault_widx (s : State) (f : Fault) : (s.recordFault f).widx = s.widx := rfl
@[simp] theorem State.recordFault_ridx (s : State) (f : Fault) : (s.recordFault f).ridx = s.ridx := rfl
@[simp] theorem State.recordFault_ibuf (s : State) (f : Fault) : (s.recordFault f).ibuf = s.ibuf := rfl
@[simp] theorem State.recordFault_len (s : State) (f : Fault) : (s.recordFault f).len = s.len := rfl
@[simp] theorem State.recordFault_fstate (s : State) (f : Fault) : (s.recordFault f).fstate = s.fstate := rfl
@[simp] theorem State.recordFault_txlog (s : State) (f : Fault) : (s.recordFault f).txlog = s.txlog := rfl
@[simp] theorem State.recordFault_rxlog (s : State) (f : Fault) : (s.recordFault f).rxlog = s.rxlog := rfl
@[simp] theorem State.recordFault_responses (s : State) (f : Fault) : (s.recordFault f).responses = s.responses := rfl
@[simp] theorem State.recordFault_faults (s : State) (f : Fault) : (s.recordFault f).faults = s.faults ++ [f] := rfl
@[simp] theorem State.recordFault_requests (s : State) (f : Fault) : (s.recordFault f).requests = s.requests := rfl
@[simp] theorem State.recordFault_periph (s : State) (f : Fault) : (s.recordFault f).periph = s.periph := rfl
@[simp] theorem State.recordFault_powerOns (s : State) (f : Fault) : (s.recordFault f).powerOns = s.powerOns := rfl

/-! ### clearFramer -/

@[simp] theorem State.clearFramer_cfg (s : State) : (s.clearFramer).cfg = s.cfg := rfl
@[simp] theorem State.clearFramer_obuf (s : State) : (s.clearFramer).obuf = s.obuf := rfl
@[simp] theorem State.clearFramer_widx (s : State) : (s.clearFramer).widx = s.widx := rfl
@[simp] theorem State.clearFramer_ridx (s : State) : (s.clearFramer).ridx = s.ridx := rfl
@[simp] theorem State.clearFramer_ibuf (s : State) : (s.clearFramer).ibuf = s.ibuf := rfl
@[simp] theorem State.clearFramer_len (s : State) : (s.clearFramer).len = 0 := rfl
@[simp] theorem State.clearFramer_fstate (s : State) : (s.clearFramer).fstate = .accumulating := rfl
@[simp] theorem State.clearFramer_txlog (s : State) : (s.clearFramer).txlog = s.txlog := rfl
@[simp] theorem State.clearFramer_rxlog (s : State) : (s.clearFramer).rxlog = s.rxlog := rfl
@[simp] theorem State.clearFramer_responses (s : State) : (s.clearFramer).responses = s.responses := rfl
@[simp] theorem State.clearFramer_faults (s : State) : (s.clearFramer).faults = s.faults := rfl
@[simp] theorem State.clearFramer_requests (s : State) : (s.clearFramer).requests = s.requests := rfl
@[simp] theorem State.clearFramer_periph (s : State) : (s.clearFramer).periph = s.periph := rfl
@[simp] theorem State.clearFramer_powerOns (s : State) : (s.clearFramer).powerOns = s.powerOns := rfl

/-! ### clearIndices -/

@[simp] theorem State.clearIndices_cfg (s : State) : (s.clearIndices).cfg = s.cfg := rfl
@[simp] theorem State.clearIndices_obuf (s : State) : (s.clearIndices).obuf = s.obuf := rfl
@[simp] theorem State.clearIndices_widx (s : State) : (s.clearIndices).widx = 0 := rfl
@[simp] theorem State.clearIndices_ridx (s : State) : (s.clearIndices).ridx = 0 := rfl
@[simp] theorem State.clearIndices_ibuf (s : State) : (s.clearIndices).ibuf = s.ibuf := rfl
@[simp] theorem State.clearIndices_len (s : State) : (s.clearIndices).len = s.len := rfl
@[simp] theorem State.clearIndices_fstate (s : State) : (s.clearIndices).fstate = s.fstate := rfl
@[simp] theorem State.clearIndices_txlog (s : State) : (s.clearIndices).txlog = s.txlog := rfl
@[simp] theorem State.clearIndices_rxlog (s : State) : (s.clearIndices).rxlog = s.rxlog := rfl
@[simp] theorem State.clearIndices_responses (s : State) : (s.clearIndices).responses = s.responses := rfl
@[simp] theorem State.clearIndices_faults (s : State) : (s.clearIndices).faults = s.faults := rfl
@[simp] theorem State.clearIndices_requests (s : State) : (s.clearIndices).requests = s.requests := rfl
@[simp] theorem State.clearIndices_periph (s : State) : (s.clearIndices).periph = s.periph := rfl
@[simp] theorem State.clearIndices_powerOns (s : State) : (s.clearIndices).powerOns = s.powerOns := rfl

/-! ### powerOn -/

@[simp] theorem State.powerOn_cfg (s : State) : (s.powerOn).cfg = s.cfg := rfl
@[simp] theorem State.powerOn_obuf (s : State) : (s.powerOn).obuf = [] := rfl
@[simp] theorem State.powerOn_widx (s : State) : (s.powerOn).widx = 0 := rfl
@[simp] theorem State.powerOn_ridx (s : State) : (s.powerOn).ridx = 0 := rfl
@[simp] theorem State.powerOn_ibuf (s : State) : (s.powerOn).ibuf = [] := rfl
@[simp] theorem State.powerOn_len (s : State) : (s.powerOn).len = 0 := rfl
@[simp] theorem State.powerOn_fstate (s : State) : (s.powerOn).fstate = .accumulating := rfl
@[simp] theorem State.powerOn_txlog (s : State) : (s.powerOn).txlog = [] := rfl
@[simp] theorem State.powerOn_rxlog (s : State) : (s.powerOn).rxlog = [] := rfl
@[simp] theorem State.powerOn_responses (s : State) : (s.powerOn).responses = s.responses := rfl
@[simp] theorem State.powerOn_faults (s : State) : (s.powerOn).faults = s.faults := rfl
@[simp] theorem State.powerOn_requests (s : State) : (s.powerOn).requests = s.requests := rfl
@[simp] theorem State.powerOn_periph (s : State) : (s.powerOn).periph = s.periph := rfl
@[simp] theorem State.powerOn_powerOns (s : State) : (s.powerOn).powerOns = s.powerOns + 1 := rfl

/-! ### withCells_obuf -/

@[simp] theorem State.withCells_obuf_cfg (s : State) (m : Memory) : (s.withCells .obuf m).cfg = s.cfg := rfl
@[simp] theorem State.withCells_obuf_obuf (s : State) (m : Memory) : (s.withCells .obuf m).obuf = m := rfl
@[simp] theorem State.withCells_obuf_widx (s : State) (m : Memory) : (s.withCells .obuf m).widx = s.widx := rfl
@[simp] theorem State.withCells_obuf_ridx (s : State) (m : Memory) : (s.withCells .obuf m).ridx = s.ridx := rfl
@[simp] theorem State.withCells_obuf_ibuf (s : State) (m : Memory) : (s.withCells .obuf m).ibuf = s.ibuf := rfl
@[simp] theorem State.withCells_obuf_len (s : State) (m : Memory) : (s.withCells .obuf m).len = s.len := rfl
@[simp] theorem State.withCells_obuf_fstate (s : State) (m : Memory) : (s.withCells .obuf m).fstate = s.fstate := rfl
@[simp] theorem State.withCells_obuf_txlog (s : State) (m : Memory) : (s.withCells .obuf m).txlog = s.txlog := rfl
@[simp] theorem State.withCells_obuf_rxlog (s : State) (m : Memory) : (s.withCells .obuf m).rxlog = s.rxlog := rfl
@[simp] theorem State.withCells_obuf_responses (s : State) (m : Memory) : (s.withCells .obuf m).responses = s.responses := rfl
@[simp] theorem State.withCells_obuf_faults (s : State) (m : Memory) : (s.withCells .obuf m).faults = s.faults := rfl
@[simp] theorem State.withCells_obuf_requests (s : State) (m : Memory) : (s.withCells .obuf m).requests = s.requests := rfl
@[simp] theorem State.withCells_obuf_periph (s : State) (m : Memory) : (s.withCells .obuf m).periph = s.periph := rfl
@[simp] theorem State.withCells_obuf_powerOns (s : State) (m : Memory) : (s.withCells .obuf m).powerOns = s.powerOns := rfl

/-! ### withCells_ibuf -/

@[simp] theorem State.withCells_ibuf_cfg (s : State) (m : Memory) : (s.withCells .ibuf m).cfg = s.cfg := rfl
@[simp] theorem State.withCells_ibuf_obuf (s : State) (m : Memory) : (s.withCells .ibuf m).obuf = s.obuf := rfl
@[simp] theorem State.withCells_ibuf_widx (s : State) (m : Memory) : (s.withCells .ibuf m).widx = s.widx := rfl
@[simp] theorem State.withCells_ibuf_ridx (s : State) (m : Memory) : (s.withCells .ibuf m).ridx = s.ridx := rfl
@[simp] theorem State.withCells_ibuf_ibuf (s : State) (m : Memory) : (s.withCells .ibuf m).ibuf = m := rfl
@[simp] theorem State.withCells_ibuf_len (s : State) (m : Memory) : (s.withCells .ibuf m).len = s.len := rfl
@[simp] theorem State.withCells_ibuf_fstate (s : State) (m : Memory) : (s.withCells .ibuf m).fstate = s.fstate := rfl
@[simp] theorem State.withCells_ibuf_txlog (s : State) (m : Memory) : (s.withCells .ibuf m).txlog = s.txlog := rfl
@[simp] theorem State.withCells_ibuf_rxlog (s : State) (m : Memory) : (s.withCells .ibuf m).rxlog = s.rxlog := rfl
@[simp] theorem State.withCells_ibuf_responses (s : State) (m : Memory) : (s.withCells .ibuf m).responses = s.responses := rfl
@[simp] theorem State.withCells_ibuf_faults (s : State) (m : Memory) : (s.withCells .ibuf m).faults = s.faults := rfl
@[simp] theorem State.withCells_ibuf_requests (s : State) (m : Memory) : (s.withCells .ibuf m).requests = s.requests := rfl
@[simp] theorem State.withCells_ibuf_periph (s : State) (m : Memory) : (s.withCells .ibuf m).periph = s.periph := rfl
@[simp] theorem State.withCells_ibuf_powerOns (s : State) (m : Memory) : (s.withCells .ibuf m).powerOns = s.powerOns := rfl

/-! ### present -/

@[simp] theorem State.present_cfg (s : State) (cmd : Word) : (s.present cmd).cfg = s.cfg := rfl
@[simp] theorem State.present_obuf (s : State) (cmd : Word) : (s.present cmd).obuf = s.obuf := rfl
@[simp] theorem State.present_widx (s : State) (cmd : Word) : (s.present cmd).widx = s.widx := rfl
@[simp] theorem State.present_ridx (s : State) (cmd : Word) : (s.present cmd).ridx = s.ridx := rfl
@[simp] theorem State.present_ibuf (s : State) (cmd : Word) : (s.present cmd).ibuf = s.ibuf := rfl
@[simp] theorem State.present_len (s : State) (cmd : Word) : (s.present cmd).len = s.len := rfl
@[simp] theorem State.present_fstate (s : State) (cmd : Word) : (s.present cmd).fstate = s.fstate := rfl
@[simp] theorem State.present_txlog (s : State) (cmd : Word) : (s.present cmd).txlog = s.txlog := rfl
@[simp] theorem State.present_rxlog (s : State) (cmd : Word) : (s.present cmd).rxlog = s.rxlog := rfl
@[simp] theorem State.present_responses (s : State) (cmd : Word) : (s.present cmd).responses = s.responses := rfl
@[simp] theorem State.present_faults (s : State) (cmd : Word) : (s.present cmd).faults = s.faults := rfl
@[simp] theorem State.present_requests (s : State) (cmd : Word) : (s.present cmd).requests = .command cmd s.periph :: s.requests := rfl
@[simp] theorem State.present_periph (s : State) (cmd : Word) : (s.present cmd).periph = s.periph := rfl
@[simp] theorem State.present_powerOns (s : State) (cmd : Word) : (s.present cmd).powerOns = s.powerOns := rfl

/-! ### resetWith -/

@[simp] theorem State.resetWith_cfg (c : Config) : (State.resetWith c).cfg = c := rfl
@[simp] theorem State.resetWith_obuf (c : Config) : (State.resetWith c).obuf = [] := rfl
@[simp] theorem State.resetWith_widx (c : Config) : (State.resetWith c).widx = 0 := rfl
@[simp] theorem State.resetWith_ridx (c : Config) : (State.resetWith c).ridx = 0 := rfl
@[simp] theorem State.resetWith_ibuf (c : Config) : (State.resetWith c).ibuf = [] := rfl
@[simp] theorem State.resetWith_len (c : Config) : (State.resetWith c).len = 0 := rfl
@[simp] theorem State.resetWith_fstate (c : Config) : (State.resetWith c).fstate = .accumulating := rfl
@[simp] theorem State.resetWith_txlog (c : Config) : (State.resetWith c).txlog = [] := rfl
@[simp] theorem State.resetWith_rxlog (c : Config) : (State.resetWith c).rxlog = [] := rfl
@[simp] theorem State.resetWith_responses (c : Config) : (State.resetWith c).responses = [] := rfl
@[simp] theorem State.resetWith_faults (c : Config) : (State.resetWith c).faults = [] := rfl
@[simp] theorem State.resetWith_requests (c : Config) : (State.resetWith c).requests = [] := rfl
@[simp] theorem State.resetWith_periph (c : Config) : (State.resetWith c).periph = { txReady := false, rx := none } := rfl
@[simp] theorem State.resetWith_powerOns (c : Config) : (State.resetWith c).powerOns = 0 := rfl

/-! ### The illegal-command outcome -/

@[simp] theorem State.takeIllegalCommand_cfg (s : State) (cmd : Word) : (s.takeIllegalCommand cmd).cfg = s.cfg := rfl
@[simp] theorem State.takeIllegalCommand_obuf (s : State) (cmd : Word) : (s.takeIllegalCommand cmd).obuf = s.obuf := rfl
@[simp] theorem State.takeIllegalCommand_widx (s : State) (cmd : Word) : (s.takeIllegalCommand cmd).widx = s.widx := rfl
@[simp] theorem State.takeIllegalCommand_ridx (s : State) (cmd : Word) : (s.takeIllegalCommand cmd).ridx = s.ridx := rfl
@[simp] theorem State.takeIllegalCommand_ibuf (s : State) (cmd : Word) : (s.takeIllegalCommand cmd).ibuf = s.ibuf := rfl
@[simp] theorem State.takeIllegalCommand_len (s : State) (cmd : Word) : (s.takeIllegalCommand cmd).len = s.len := rfl
@[simp] theorem State.takeIllegalCommand_fstate (s : State) (cmd : Word) : (s.takeIllegalCommand cmd).fstate = s.fstate := rfl
@[simp] theorem State.takeIllegalCommand_txlog (s : State) (cmd : Word) : (s.takeIllegalCommand cmd).txlog = s.txlog := rfl
@[simp] theorem State.takeIllegalCommand_rxlog (s : State) (cmd : Word) : (s.takeIllegalCommand cmd).rxlog = s.rxlog := rfl
@[simp] theorem State.takeIllegalCommand_responses (s : State) (cmd : Word) : (s.takeIllegalCommand cmd).responses = s.responses ++ [Response.toWord { err := true }] := rfl
@[simp] theorem State.takeIllegalCommand_faults (s : State) (cmd : Word) : (s.takeIllegalCommand cmd).faults = s.faults ++ [.illegalCommand cmd] := rfl
@[simp] theorem State.takeIllegalCommand_requests (s : State) (cmd : Word) : (s.takeIllegalCommand cmd).requests = s.requests := rfl
@[simp] theorem State.takeIllegalCommand_periph (s : State) (cmd : Word) : (s.takeIllegalCommand cmd).periph = s.periph := rfl
@[simp] theorem State.takeIllegalCommand_powerOns (s : State) (cmd : Word) : (s.takeIllegalCommand cmd).powerOns = s.powerOns := rfl

/-! ### Buffers by space -/

@[simp] theorem State.cells_obuf (s : State) : s.cells .obuf = s.obuf := rfl
@[simp] theorem State.cells_ibuf (s : State) : s.cells .ibuf = s.ibuf := rfl

/-- `State.reset` is the reset of the instance `Config.default`. -/
@[simp] theorem State.reset_eq : State.reset = State.resetWith Config.default := rfl

end Sys2Proof.Machine
end

