-- ==== Sys2Proof/Laws/Ops.lean ====
section
/-! SUPPORT. One lemma for each shared operation that says everything it can do; the proofs about commands cite these. -/

namespace Sys2Proof.Machine

/-- What reading a cell can answer: the cell exists and this is its content, or the index does not exist. -/
theorem readCell_cases (s : State) (sp : Space) (i : Nat) :
    (i < s.cfg.capacity ∧ s.readCell sp i = .ok ((s.cells sp).read i)) ∨
    (s.cfg.capacity ≤ i ∧ s.readCell sp i = .error (.noSuchCell sp i)) := by
  unfold State.readCell
  split
  · next h => exact .inl ⟨h, rfl⟩
  · next h => exact .inr ⟨by omega, rfl⟩

/-- What writing a cell can answer. -/
theorem writeCell_cases (s : State) (sp : Space) (i : Nat) (b : Byte) :
    (i < s.cfg.capacity ∧ s.writeCell sp i b = .ok (s.withCells sp ((s.cells sp).write i b))) ∨
    (s.cfg.capacity ≤ i ∧ s.writeCell sp i b = .error (.noSuchCell sp i)) := by
  unfold State.writeCell
  split
  · next h => exact .inl ⟨h, rfl⟩
  · next h => exact .inr ⟨by omega, rfl⟩

/-- A frame completed (R121): `NUL` at `IBUF[LEN]`, `FSTATE` set, nothing else. -/
theorem completeFrame_ok (s t : State) (h : s.completeFrame = .ok t) :
    s.len < s.cfg.capacity ∧ t = { s with ibuf := s.ibuf.write s.len NUL, fstate := .frameReady } := by
  unfold State.completeFrame at h
  rcases writeCell_cases s .ibuf s.len NUL with ⟨hl, e⟩ | ⟨_, e⟩
  · rw [e] at h
    exact ⟨hl, (Except.ok.inj h).symm⟩
  · rw [e] at h
    cases h

/-- A byte appended (R122): `IBUF[LEN]` holds it, `LEN` grows by one, nothing else. -/
theorem appendByte_ok (s t : State) (b : Byte) (h : s.appendByte b = .ok t) :
    s.len < s.cfg.capacity ∧ t = { s with ibuf := s.ibuf.write s.len b, len := s.len + 1 } := by
  unfold State.appendByte at h
  rcases writeCell_cases s .ibuf s.len b with ⟨hl, e⟩ | ⟨_, e⟩
  · rw [e] at h
    exact ⟨hl, (Except.ok.inj h).symm⟩
  · rw [e] at h
    cases h

/-- When `LEN` is in range, a frame can be completed. -/
theorem completeFrame_eq (s : State) (h : s.len < s.cfg.capacity) :
    s.completeFrame = .ok { s with ibuf := s.ibuf.write s.len NUL, fstate := .frameReady } := by
  rcases writeCell_cases s .ibuf s.len NUL with ⟨_, e⟩ | ⟨hl, _⟩
  · unfold State.completeFrame
    rw [e]
    rfl
  · omega

/-- When `LEN` is in range, a byte can be appended. -/
theorem appendByte_eq (s : State) (b : Byte) (h : s.len < s.cfg.capacity) :
    s.appendByte b = .ok { s with ibuf := s.ibuf.write s.len b, len := s.len + 1 } := by
  rcases writeCell_cases s .ibuf s.len b with ⟨_, e⟩ | ⟨hl, _⟩
  · unfold State.appendByte
    rw [e]
    rfl
  · omega

end Sys2Proof.Machine
end

