-- ==== Sys2Proof/Laws/Instructions.lean ====
section
/-! SUPPORT. What each half of `SVC`, each command and each step can do, said once: "if it answers a next state, then one
of these cases holds". -/

namespace Sys2Proof.Machine

/-! ### The halves of `SVC` -/

/-- Everything the drain step can do (40_output_channel.md R103, R104). -/
theorem drainStep_ok (ready : Bool) (s t : State) (tx : Bool) (h : drainStep ready s = .ok (tx, t)) :
    (tx = false ∧ t = s ∧ (ready = false ∨ s.widx = s.ridx)) ∨
    (tx = true ∧ ready = true ∧ s.widx ≠ s.ridx ∧ s.ridx < s.cfg.capacity ∧
      ∃ b, s.obuf.read s.ridx = some b ∧
        t = { s with txlog := s.txlog ++ [b], ridx := nextIndex s.cfg s.ridx }) := by
  unfold drainStep at h
  split at h
  · next hc =>
    simp only [Bool.and_eq_true, Bool.not_eq_true', ← Bool.not_eq_true, oempty_iff] at hc
    rcases readCell_cases s .obuf s.ridx with ⟨hr, e⟩ | ⟨_, e⟩
    · rw [e] at h
      split at h
      · cases h
      · cases h
      · next b hb =>
        cases h
        exact .inr ⟨rfl, hc.1, hc.2, hr, b, Except.ok.inj hb, rfl⟩
    · rw [e] at h
      cases h
  · next hc =>
    cases h
    refine .inl ⟨rfl, rfl, ?_⟩
    cases ready
    · exact .inl rfl
    · exact .inr ((oempty_iff s).1 (by simpa using hc))

/-- The drain step with nothing to do. -/
theorem drainStep_idle (ready : Bool) (s : State) (h : ready = false ∨ s.widx = s.ridx) :
    drainStep ready s = .ok (false, s) := by
  unfold drainStep
  rw [if_neg]
  rcases h with h | h
  · simp [h]
  · simp [(oempty_iff s).2 h]

/-- The drain step with a byte to transmit. -/
theorem drainStep_transmits (s : State) (b : Byte) (h : s.widx ≠ s.ridx) (hr : s.ridx < s.cfg.capacity)
    (hb : s.obuf.read s.ridx = some b) :
    drainStep true s = .ok (true, { s with txlog := s.txlog ++ [b], ridx := nextIndex s.cfg s.ridx }) := by
  have he : s.oempty = false := by
    rw [← Bool.not_eq_true, oempty_iff]
    exact h
  unfold drainStep
  rcases readCell_cases s .obuf s.ridx with ⟨_, e⟩ | ⟨hl, _⟩
  · simp only [he, e, State.cells_obuf, hb]
    rfl
  · omega

/-- Everything the receive step can do (41_input_framer.md R120 to R123). -/
theorem receiveStep_ok (answer : Option Byte) (s t : State) (rx fr : Bool)
    (h : receiveStep answer s = .ok (rx, fr, t)) :
    (answer = none ∧ rx = false ∧ fr = false ∧ t = s) ∨
    (answer = some s.cfg.term ∧ rx = true ∧ fr = true ∧ s.len < s.cfg.capacity ∧
      t = { s with rxlog := s.rxlog ++ [s.cfg.term], ibuf := s.ibuf.write s.len NUL, fstate := .frameReady }) ∨
    (∃ b, answer = some b ∧ b ≠ s.cfg.term ∧ s.len < s.cfg.capacity - 2 ∧ rx = true ∧ fr = false ∧
      t = { s with rxlog := s.rxlog ++ [b], ibuf := s.ibuf.write s.len b, len := s.len + 1 }) ∨
    (∃ b, answer = some b ∧ b ≠ s.cfg.term ∧ ¬ s.len < s.cfg.capacity - 2 ∧ rx = true ∧ fr = false ∧
      t = { s with rxlog := s.rxlog ++ [b] }) := by
  unfold receiveStep at h
  split at h
  · cases h
    exact .inl ⟨rfl, rfl, rfl, rfl⟩
  · next b =>
    split at h
    · next hb =>
      subst hb
      split at h
      · cases h
      · next s1 he =>
        cases h
        obtain ⟨hl, rfl⟩ := completeFrame_ok _ _ he
        exact .inr (.inl ⟨rfl, rfl, rfl, hl, rfl⟩)
    · next hb =>
      split at h
      · next hr =>
        split at h
        · cases h
        · next s1 he =>
          cases h
          obtain ⟨_, rfl⟩ := appendByte_ok _ _ _ he
          exact .inr (.inr (.inl ⟨b, rfl, hb, of_decide_eq_true hr, rfl, rfl, rfl⟩))
      · next hr =>
        cases h
        exact .inr (.inr (.inr ⟨b, rfl, hb, fun hl => hr (decide_eq_true hl), rfl, rfl, rfl⟩))

/-- The receive step completes when `LEN` is in range. -/
theorem receiveStep_completes (answer : Option Byte) (s : State) (h : s.len < s.cfg.capacity) :
    ∃ rx fr t, receiveStep answer s = .ok (rx, fr, t) := by
  unfold receiveStep
  split
  · exact ⟨_, _, _, rfl⟩
  · next b =>
    split
    · rw [completeFrame_eq _ (by simpa using h)]
      exact ⟨_, _, _, rfl⟩
    · split
      · rw [appendByte_eq _ _ (by simpa using h)]
        exact ⟨_, _, _, rfl⟩
      · exact ⟨_, _, _, rfl⟩

/-! ### The commands -/

/-- Everything `ENQ` can do (R100). -/
theorem execEnq_next (b : Byte) (s t : State) (h : execEnq b s = .next t) :
    (s.ofull = true ∧ t = s.respond {}) ∨
    (s.ofull = false ∧ s.widx < s.cfg.capacity ∧
      t = State.respond { s with obuf := s.obuf.write s.widx b, widx := nextIndex s.cfg s.widx } { f := true }) := by
  unfold execEnq at h
  split at h
  · next hf =>
    cases h
    exact .inl ⟨hf, rfl⟩
  · next hf =>
    rcases writeCell_cases s .obuf s.widx b with ⟨hw, e⟩ | ⟨_, e⟩
    · rw [e] at h
      cases h
      exact .inr ⟨by simpa using hf, hw, rfl⟩
    · rw [e] at h
      cases h

/-- Everything `SVC` can do (R140): its two halves one after the other, and one response. -/
theorem execSvc_next (s t : State) (h : execSvc s = .next t) :
    ∃ tx s1 rx fr s2, drainStep s.periph.txReady s = .ok (tx, s1) ∧
      receiveStep s.periph.rx s1 = .ok (rx, fr, s2) ∧ t = s2.respond { rx := rx, tx := tx, f := fr } := by
  unfold execSvc at h
  split at h
  · cases h
  · next tx s1 hd =>
    split at h
    · cases h
    · next rx fr s2 hr =>
      cases h
      exact ⟨tx, s1, rx, fr, s2, hd, hr, rfl⟩

/-- `SVC` from its two halves. -/
theorem execSvc_of_halves (s s1 s2 : State) (tx rx fr : Bool) (hd : drainStep s.periph.txReady s = .ok (tx, s1))
    (hr : receiveStep s.periph.rx s1 = .ok (rx, fr, s2)) :
    execSvc s = .next (s2.respond { rx := rx, tx := tx, f := fr }) := by
  unfold execSvc
  rw [hd]
  simp only [hr]

/-- Everything `RDBUF` can do (R127): it always answers a next state. -/
theorem execRdbuf_cases (ix : Byte) (s : State) :
    (∃ b, ix.toNat < s.cfg.capacity ∧ s.ibuf.read ix.toNat = some b ∧
      execRdbuf ix s = .next (s.respond { data := b })) ∨
    (ix.toNat < s.cfg.capacity ∧ s.ibuf.read ix.toNat = none ∧
      execRdbuf ix s = .next ((s.recordFault (.unwrittenRead .ibuf ix.toNat)).respond
        { data := Config.unwrittenByte s.powerOns ix.toNat })) ∨
    (s.cfg.capacity ≤ ix.toNat ∧ execRdbuf ix s = .next (s.takeIllegalCommand (encode (.rdbuf ix)))) := by
  unfold execRdbuf bufIndex
  rcases readCell_cases s .ibuf ix.toNat with ⟨hi, e⟩ | ⟨hi, e⟩
  · rw [e]
    cases hm : s.ibuf.read ix.toNat with
    | none => exact .inr (.inl ⟨hi, rfl, by simp [hm]⟩)
    | some b => exact .inl ⟨b, hi, rfl, by simp [hm]⟩
  · rw [e]
    exact .inr (.inr ⟨hi, rfl⟩)

/-! ### Steps -/

/-- Everything a step can do: nothing, a power-on, a legal command, or the illegal-command outcome. -/
theorem step_next (s t : State) (h : step s = .next t) :
    (s.requests = [] ∧ t = s) ∨
    (∃ rest, s.requests = .powerOn :: rest ∧ t = State.powerOn { s with requests := rest }) ∨
    (∃ cmd a rest i, s.requests = .command cmd a :: rest ∧ decode s.cfg cmd = .ok i ∧
      exec i { s with requests := rest, periph := a } = .next t) ∨
    (∃ cmd a rest e, s.requests = .command cmd a :: rest ∧ decode s.cfg cmd = .error e ∧
      t = State.takeIllegalCommand { s with requests := rest, periph := a } cmd) := by
  unfold step advance State.nextEvent at h
  cases hq : s.requests with
  | nil =>
    rw [hq] at h
    cases h
    exact .inl ⟨rfl, rfl⟩
  | cons e rest =>
    rw [hq] at h
    cases e with
    | powerOn =>
      cases h
      exact .inr (.inl ⟨rest, rfl, rfl⟩)
    | command cmd a =>
      simp only [handle, issue] at h
      split at h
      · next i hi => exact .inr (.inr (.inl ⟨cmd, a, rest, i, rfl, hi, h⟩))
      · next e he =>
        cases h
        exact .inr (.inr (.inr ⟨cmd, a, rest, e, rfl, he, rfl⟩))

end Sys2Proof.Machine
end

