-- ==== Sys2Proof/Laws/PerInstr.lean ====
section
/-! SUPPORT. The family `RowMatch`: every command's word matches its row of the opcode map (30_encoding.md R83). -/

namespace Sys2Proof.Laws.RowMatch

/-- The word of a command matches the command's row. -/
def Statement (i : Instr) : Prop := (rowOf i).Matches (encode i)

theorem init : Statement .init := by
  unfold Statement OpcodeRow.Matches
  decide

theorem enq (b : Byte) : Statement (.enq b) := by
  unfold Statement OpcodeRow.Matches
  revert b
  decide

theorem svc : Statement .svc := by
  unfold Statement OpcodeRow.Matches
  decide

theorem clr : Statement .clr := by
  unfold Statement OpcodeRow.Matches
  decide

theorem rdbuf (i : Byte) : Statement (.rdbuf i) := by
  unfold Statement OpcodeRow.Matches
  revert i
  decide

theorem rdreg (r : Reg) : Statement (.rdreg r) := by
  unfold Statement OpcodeRow.Matches
  cases r <;> decide

end Sys2Proof.Laws.RowMatch
end

