-- ==== Sys2Proof/Tests/Slice0.lean ====
section
/-! SUPPORT. Tests: the checks of WellFormed and Config, decoding of words written out from the spec, one or two vectors of
95_test_vectors.md per command, the assembler, and for every statement with hypotheses a state that meets them. -/

namespace Sys2Proof.Tests

open Sys2Proof.Machine

/-! ### Helpers -/

/-- The next state of an outcome. -/
def nextOf (o : Host.Outcome State Fault Refusal) : Option State :=
  match o with
  | .next s => some s
  | _ => none

/-- A field of the next state of an outcome. -/
def after {α : Type} (o : Host.Outcome State Fault Refusal) (f : State → α) : Option α := (nextOf o).map f

/-- The vectors' instance (`C = 8`, `TERM = 0x0D`) with `W`, `R`, `OBUF`, `L`, `FS`, `IBUF`. -/
def vec (w r : Nat) (ob : Memory) (l : Nat) (fs : FState) (ib : Memory) : State :=
  { State.reset with widx := w, ridx := r, obuf := ob, len := l, fstate := fs, ibuf := ib }

/-- A state with the peripheral's answers. -/
def withAnswers (s : State) (ready : Bool) (rx : Option Byte) : State :=
  { s with periph := { txReady := ready, rx := rx } }

/-! ### Config and WellFormed: what each check refuses -/

theorem test_config_refuses_small_k : ¬ Config.Legal { k := 1, term := 0x0D } := by decide
theorem test_config_refuses_large_k : ¬ Config.Legal { k := 9, term := 0x0D } := by decide
theorem test_wellFormed_refuses_rdbuf_8 : (Instr.rdbuf 8).wellFormed Config.default = false := by decide
theorem test_wellFormed_admits_rdbuf_7 : (Instr.rdbuf 7).wellFormed Config.default = true := by decide
theorem test_regOfNumber_refuses_7 : regOfNumber 7 = none := by decide

/-! ### Decoding, on words written out bit by bit from R80 and R83 -/

theorem test_decode_init : decode Config.default 0b0001000000000000#16 = .ok .init := by decide
theorem test_decode_enq : decode Config.default 0b0010000001001000#16 = .ok (.enq 0x48) := by decide
theorem test_decode_svc : decode Config.default 0b0011000000000000#16 = .ok .svc := by decide
theorem test_decode_clr : decode Config.default 0b0100000000000000#16 = .ok .clr := by decide
theorem test_decode_rdbuf : decode Config.default 0b0101000000000010#16 = .ok (.rdbuf 2) := by decide
theorem test_decode_rdreg : decode Config.default 0b0110000000000011#16 = .ok (.rdreg .status) := by decide
theorem test_encode_words : [Instr.init, .enq 0x48, .svc, .clr, .rdbuf 2, .rdreg .ocount].map encode =
    [0x1000, 0x2048, 0x3000, 0x4000, 0x5002, 0x6006] := by decide
/-- V-DEC-1, V-DEC-2. -/
theorem test_decode_undefinedOpcode :
    [0x0000, 0x7000, 0xF000].map (decode Config.default) = List.replicate 3 (.error .undefinedOpcode) := by decide
/-- V-DEC-3. -/
theorem test_decode_nonzeroOperand :
    [0x1001, 0x3001, 0x40FF].map (decode Config.default) = List.replicate 3 (.error .nonzeroOperand) := by decide
/-- V-DEC-4. -/
theorem test_decode_reservedBits :
    [0x2100, 0x2F41, 0x3800].map (decode Config.default) = List.replicate 3 (.error .reservedBits) := by decide
/-- V-DEC-6, V-DEC-7. -/
theorem test_decode_outOfRange :
    decode Config.default 0x5008 = .error .indexOutOfRange ∧
      decode Config.default 0x6007 = .error .registerOutOfRange := by decide
/-- V-DEC-8. -/
theorem test_decode_rdbuf_k8 : decode { k := 8, term := 0x0D } 0x50FF = .ok (.rdbuf 0xFF) := by decide
theorem test_decodeTableWord : decodeTableWord 16 0x2041 = some (.enq 0x41) := by decide

/-! ### Commands: vectors of 95_test_vectors.md -/

/-- V-INIT-1. -/
theorem test_init : after (exec .init (vec 5 2 [(2, 1)] 3 .frameReady [(0, 2)]))
    (fun t => (t.widx, t.ridx, t.len, t.fstate, t.obuf.read 2)) = some (0, 0, 0, .accumulating, some 1) := by decide
/-- V-ENQ-4. -/
theorem test_enq_wraps : after (exec (.enq 0x44) (vec 7 3 [] 0 .accumulating []))
    (fun t => (t.obuf, t.widx, t.responses)) = some ([(7, 0x44)], 0, [0x0100]) := by decide
/-- V-ENQ-5. -/
theorem test_enq_full_drops : after (exec (.enq 0x45) (vec 2 3 [] 0 .accumulating []))
    (fun t => (t.obuf, t.widx, t.responses)) = some ([], 2, [0x0000]) := by decide
/-- V-SVC-1. -/
theorem test_svc_both : after (exec .svc
      (withAnswers (vec 1 0 [(0, 0x4F)] 2 .accumulating [(0, 0x48), (1, 0x49)]) true (some 0x0D)))
    (fun t => (t.txlog, t.ridx, t.ibuf.read 2, t.fstate, t.responses)) =
      some ([0x4F], 1, some 0x00, .frameReady, [0x0700]) := by decide
/-- V-RX-9. -/
theorem test_svc_overwrites_nul : after (exec .svc
      (withAnswers (vec 0 0 [] 2 .frameReady [(0, 0x48), (1, 0x49), (2, 0)]) false (some 0x58)))
    (fun t => (t.ibuf.read 2, t.len, t.fstate, t.responses)) = some (some 0x58, 3, .frameReady, [0x0400]) := by decide
/-- V-CLR-1. -/
theorem test_clr_keeps_bytes : after (exec .clr (vec 0 0 [] 2 .frameReady [(0, 0x48), (1, 0x49), (2, 0)]))
    (fun t => (t.len, t.fstate, t.ibuf)) = some (0, .accumulating, [(0, 0x48), (1, 0x49), (2, 0)]) := by decide
/-- V-CLR-4. -/
theorem test_clr_keeps_output : after (exec .clr (vec 5 2 [] 3 .accumulating []))
    (fun t => (t.widx, t.ridx, t.len)) = some (5, 2, 0) := by decide
/-- V-RDBUF-6. -/
theorem test_rdbuf_stale : after (exec (.rdbuf 1) (vec 0 0 [] 0 .accumulating [(0, 0x48), (1, 0x49)]))
    (fun t => (t.responses, t.faults)) = some ([0x0049], []) := by decide
/-- V-RDBUF-3: the fault is recorded (the byte is free, so no test names it). -/
theorem test_rdbuf_unwritten : after (exec (.rdbuf 0) State.reset) (fun t => t.faults) =
    some [.unwrittenRead .ibuf 0] := by decide
/-- V-RDREG-3. -/
theorem test_rdreg_status_ocount : after (exec (.rdreg .status) (vec 2 3 [] 0 .frameReady [])) State.responses =
      some [0x0006] ∧
    after (exec (.rdreg .ocount) (vec 2 3 [] 0 .frameReady [])) State.responses = some [0x0007] := by decide
/-- V-RDREG-4. -/
theorem test_rdreg_constants : after (exec (.rdreg .caplog) State.reset) State.responses = some [0x0003] ∧
    after (exec (.rdreg .termreg) State.reset) State.responses = some [0x000D] := by decide
/-- V-DEC-9: an illegal word transmits nothing although the peripheral is ready. -/
theorem test_illegal_word : after (step ({ vec 1 0 [(0, 0x4F)] 0 .accumulating [] with
      requests := [.command 0x7000 { txReady := true, rx := none }] }))
    (fun t => (t.responses, t.txlog, t.ridx, t.faults)) =
      some ([0x8000], [], 0, [.illegalCommand 0x7000]) := by decide
/-- R200: a power-on empties the cells and the logs. -/
theorem test_powerOn : after (step ({ vec 1 0 [(0, 0x4F)] 2 .frameReady [(0, 1)] with requests := [.powerOn] }))
    (fun t => (t.widx, t.len, t.obuf.read 0, t.ibuf.read 0, t.responses)) = some (0, 0, none, none, []) := by decide
theorem test_step_withFetchWord : after (step (State.reset.withFetchWord 16 0x2041)) (fun t => (t.obuf, t.responses)) =
    some ([(0, 0x41)], [0x0100]) := by decide

/-! ### The assembler (R86, R87) -/

theorem test_asm_enqs_string : assembleLine "ENQS \"OK\\r\"".toList = some [.enq 0x4F, .enq 0x4B, .enq 0x0D] := by decide
theorem test_asm_quoted_semicolon : assembleLine "ENQ ';' ; a comment".toList = some [.enq 0x3B] := by decide
theorem test_asm_refuses_large_byte : assembleLine "ENQ 256".toList = none := by decide
theorem test_asm_refuses_second_operand : assembleLine "RDBUF 1 2".toList = none := by decide

/-! ### Witnesses: states that meet the statements' hypotheses -/

/-- One pending byte across the wrap, a completed frame "HI", and room for more. -/
def held : State := vec 0 7 [(7, 0x44)] 2 .frameReady [(0, 0x48), (1, 0x49), (2, 0x00)]

/-- A full Output Channel across the wrap (`W = 2`, `R = 3`), and a framer without room (`LEN = C - 2`). -/
def full : State :=
  vec 2 3 [(0, 1), (1, 2), (3, 3), (4, 4), (5, 5), (6, 6), (7, 7)] 6 .accumulating
    [(0, 0x41), (1, 0x42), (2, 0x43), (3, 0x44), (4, 0x45), (5, 0x46)]

theorem witness_inv_held : Inv held := by constructor <;> decide
theorem witness_inv_full : Inv full := by constructor <;> decide

theorem witness_DecodeOfEncodedCommand : (Instr.rdbuf 7).wellFormed Config.default = true := by decide
theorem witness_EncodedWordOfDecodedCommand : decode Config.default 0x5007 = .ok (.rdbuf 7) := by decide
theorem witness_DecodesExactlyLegalWords : ({ k := 8, term := 0 } : Config).k = 8 := rfl
theorem witness_DecodeFollowsOpcodeMap : decode Config.default 0x6006 = .ok (.rdreg .ocount) := by decide
theorem witness_ListedWordsAreIllegal_opcode : ¬ legal held.cfg 0x7000 := by
  unfold legal
  decide
theorem witness_ListedWordsAreIllegal_reserved : ¬ legal held.cfg 0x2100 := by
  unfold legal
  decide
theorem witness_ListedWordsAreIllegal_operand : ¬ legal held.cfg 0x1001 := by
  unfold legal
  decide
theorem witness_ListedWordsAreIllegal_index : ¬ legal held.cfg 0x5008 := by
  unfold legal
  decide
theorem witness_ListedWordsAreIllegal_register : ¬ legal held.cfg 0x6007 := by
  unfold legal
  decide
theorem witness_SpecEncodingExamples : Config.default.Legal ∧ Config.default.k = 3 := by decide
theorem witness_StepRunsTheDecodedCommand :
    (held.present 0x2041).requests = .command 0x2041 held.periph :: [] ∧
      decode (held.present 0x2041).cfg 0x2041 = .ok (.enq 0x41) ∧ (Instr.enq 0x41).wellFormed held.cfg = true := by
  decide
theorem witness_StepWithoutRequestChangesNothing : held.requests = [] := rfl
theorem witness_IllegalWordTakesIllegalOutcome :
    (held.present 0x7000).requests = .command 0x7000 held.periph :: [] ∧ ¬ legal (held.present 0x7000).cfg 0x7000 ∧
      (nextOf (step (held.present 0x7000))).isSome = true := by
  refine ⟨rfl, ?_, by decide⟩
  unfold legal
  decide
theorem witness_IllegalWordLeavesNoTrace :
    (held.present 0x7000).requests = .command 0x7000 held.periph :: [] ∧ ¬ legal (held.present 0x7000).cfg 0x7000 ∧
      (nextOf (runFor 1 { held.present 0x7000 with requests := [] })).isSome = true := by
  refine ⟨rfl, ?_, by decide⟩
  unfold legal
  decide
theorem witness_PowerOnEventResets : ({ held with requests := [.powerOn] } : State).requests = .powerOn :: [] := rfl
theorem witness_StepKeepsInvariant : Inv (held.present 0x2041) ∧
    (nextOf (step (held.present 0x2041))).isSome = true := by
  refine ⟨?_, by decide⟩
  constructor <;> decide
theorem witness_EveryCommandIsAnswered : Inv (full.present 0x3000) ∧
    (full.present 0x3000).requests = .command 0x3000 full.periph :: [] := by
  refine ⟨?_, rfl⟩
  constructor <;> decide
theorem witness_InitResetsIndicesAndFramer : opField 0x1001 = 1 ∧ (0x1001 : Word) ≠ 0x1000 := by decide
theorem witness_EnqStoresOrDrops_reserved : opField 0x2100 = 2 ∧ rsvField 0x2100 ≠ 0 := by decide
theorem witness_EnqStoresOrDrops_full : (full.widx + 1) % full.cfg.capacity = full.ridx := by decide
theorem witness_EnqStoresOrDrops_room :
    (held.widx + 1) % held.cfg.capacity ≠ held.ridx ∧ held.widx < held.cfg.capacity := by decide
theorem witness_SvcDrainsAndReceives : opField 0x3001 = 3 ∧ (0x3001 : Word) ≠ 0x3000 := by decide
theorem witness_DrainOnEmptyDoesNothing : State.reset.widx = State.reset.ridx := rfl
theorem witness_TerminatorCompletesFrame_noRoom :
    Inv (withAnswers full true (some 0x0D)) ∧ (withAnswers full true (some 0x0D)).periph.rx = some full.cfg.term := by
  refine ⟨?_, by decide⟩
  constructor <;> decide
theorem witness_ByteWithRoomIsAppended :
    Inv (withAnswers held true (some 0x58)) ∧ (withAnswers held true (some 0x58)).periph.rx = some 0x58 ∧
      (0x58 : Byte) ≠ held.cfg.term ∧ held.len < held.cfg.capacity - 2 := by
  refine ⟨?_, by decide⟩
  constructor <;> decide
theorem witness_ByteWithoutRoomIsDropped :
    Inv (withAnswers full false (some 0x59)) ∧ (withAnswers full false (some 0x59)).periph.rx = some 0x59 ∧
      (0x59 : Byte) ≠ full.cfg.term ∧ full.len = full.cfg.capacity - 2 := by
  refine ⟨?_, by decide⟩
  constructor <;> decide
/-- For FrameReadySignalIsPulse, ServiceResponseValues and ServiceCallsPeripheralAtMostOnce: `SVC` answers a next state. -/
theorem witness_svc_answers : (nextOf (exec .svc (withAnswers held true (some 0x0D)))).isSome = true := by decide
theorem witness_IdleServiceChangesNothing_notReady : held.periph.txReady = false ∧ held.periph.rx = none := by decide
theorem witness_IdleServiceChangesNothing_empty :
    (withAnswers State.reset true none).widx = (withAnswers State.reset true none).ridx ∧
      (withAnswers State.reset true none).periph.rx = none := by decide
theorem witness_OnlyServiceCallsPeripheral : Instr.clr ≠ .svc ∧ (nextOf (exec .clr held)).isSome = true := by decide
/-- For the clauses on illegal words of OnlyServiceCallsPeripheral and ResponseFieldsBelongToTheirCommands. -/
theorem witness_issue_illegal : ¬ legal held.cfg 0x7000 ∧ (nextOf (issue 0x7000 held)).isSome = true := by
  refine ⟨?_, by decide⟩
  unfold legal
  decide
theorem witness_ClrClearsOnlyTheFramer : opField 0x40FF = 4 ∧ (0x40FF : Word) ≠ 0x4000 := by decide
theorem witness_FirstByteAfterClearIsWholeContent : Inv held ∧ (0x5A : Byte) ≠ held.cfg.term :=
  ⟨witness_inv_held, by decide⟩
theorem witness_RdbufReturnsTheByte :
    (2 : Byte).toNat < held.cfg.capacity ∧ held.ibuf.read (2 : Byte).toNat = some 0x00 := by decide
theorem witness_RdbufOfCellWithoutValue :
    (7 : Byte).toNat < held.cfg.capacity ∧ held.ibuf.read (7 : Byte).toNat = none := by decide
theorem witness_RdregReadsRegisterView : Inv full ∧ Config.Legal { k := 8, term := 0 } :=
  ⟨witness_inv_full, by decide⟩
/-- For OnlyListedWritersChangeState, ReadsRepeatAndClearsAreIdempotent, LogsAreNotRead,
ResponseFieldsBelongToTheirCommands and LegalCommandsRaiseNothing: every command answers a next state from `held`, and
each of these is well-formed. -/
theorem witness_commands_answer :
    [Instr.init, .enq 0xFF, .svc, .clr, .rdbuf 0, .rdbuf 7, .rdreg .status].all
      (fun i => (nextOf (exec i held)).isSome && i.wellFormed held.cfg) = true := by decide
theorem witness_WrittenCellsStayWritten :
    (held.obuf.read 7).isSome = true ∧ (held.ibuf.read 2).isSome = true ∧
      (nextOf (exec .clr held)).isSome = true := by decide
theorem witness_FrameStateIsNotRead : Instr.rdreg .len ≠ .rdreg .status ∧
    (nextOf (exec (.rdreg .len) held)).isSome = true := by decide
theorem witness_OutputBufferIsNotReadable :
    (nextOf (exec .svc (withAnswers held true none))).isSome = true ∧
      (nextOf (exec .svc { withAnswers held true none with obuf := [(7, 0x99)] })).isSome = true := by decide
/-- `ENQ`, then a ready `SVC`: commands that keep the pending bytes. -/
theorem witness_BytesLeaveInAcceptanceOrder :
    let s := (withAnswers held true none).present (encode .svc) |>.present (encode (.enq 0x41))
    Inv s ∧ 2 ≤ s.requests.length ∧ ∀ e ∈ s.requests.take 2, keepsPending s.cfg e = true :=
  ⟨by constructor <;> decide, by decide, by decide⟩
theorem witness_EnqueueSequenceFillsToCapacity :
    let s := held.present (encode (.enq 0x41))
    Inv s ∧ s.requests = [((0x41 : Byte), held.periph)].map (fun p => request (.enq p.1) p.2) ++ [] :=
  ⟨by constructor <;> decide, by decide⟩
theorem witness_AcceptedByteIsDeliveredInPosition :
    let s := { withAnswers held true none with
      requests := [request .svc { txReady := true, rx := none }, request .svc { txReady := true, rx := none }] }
    Inv s ∧ (s.widx + 1) % s.cfg.capacity ≠ s.ridx ∧ (nextOf (exec (.enq 0x41) s)).isSome = true ∧
      2 ≤ s.requests.length ∧ s.ocount < (s.requests.take 2).countP (isReadyService s.cfg) ∧
      ∀ e ∈ s.requests.take 2, keepsPending s.cfg e = true :=
  ⟨by constructor <;> decide, by decide, by decide, by decide, by decide, by decide⟩
/-- The clause for at most `OCOUNT` ready `SVC`s, at its boundary: one pending byte, one ready `SVC`. -/
theorem witness_AcceptedByteIsDeliveredInPosition_boundary :
    let s := { withAnswers held true none with requests := [request .svc { txReady := true, rx := none }] }
    Inv s ∧ (s.widx + 1) % s.cfg.capacity ≠ s.ridx ∧ (nextOf (exec (.enq 0x41) s)).isSome = true ∧
      1 ≤ s.requests.length ∧ (s.requests.take 1).countP (isReadyService s.cfg) = s.ocount ∧
      ∀ e ∈ s.requests.take 1, keepsPending s.cfg e = true :=
  ⟨by constructor <;> decide, by decide, by decide, by decide, by decide, by decide⟩
/-- From a framer without room (`LEN = C - 2`): the byte is dropped, the terminator completes the frame. -/
theorem witness_ReceivedBytesBecomeFrame_noRoom :
    let s := { full with
      requests := [request .svc { txReady := false, rx := some 0x58 }, request .svc { txReady := true, rx := some 0x0D }] }
    Inv s ∧ (∀ p ∈ [((0x58 : Byte), false)], p.1 ≠ s.cfg.term) ∧
      s.requests = [((0x58 : Byte), false)].map (fun p => request .svc { txReady := p.2, rx := some p.1 }) ++
        request .svc { txReady := true, rx := some s.cfg.term } :: [] := by
  refine ⟨by constructor <;> decide, ?_, rfl⟩
  simp only [List.mem_singleton, forall_eq]
  decide
theorem witness_ReceivedBytesBecomeFrame :
    let s := { held with
      requests := [request .svc { txReady := false, rx := some 0x58 }, request .svc { txReady := true, rx := some 0x0D }] }
    Inv s ∧ (∀ p ∈ [((0x58 : Byte), false)], p.1 ≠ s.cfg.term) ∧
      s.requests = [((0x58 : Byte), false)].map (fun p => request .svc { txReady := p.2, rx := some p.1 }) ++
        request .svc { txReady := true, rx := some s.cfg.term } :: [] := by
  refine ⟨by constructor <;> decide, ?_, rfl⟩
  simp only [List.mem_singleton, forall_eq]
  decide
theorem witness_FrameIsHeldUntilAppendOrClear :
    held.ibuf.read held.len = some NUL ∧ (nextOf (exec (.enq 1) held)).isSome = true ∧
      Instr.enq 1 ≠ .clr ∧ Instr.enq 1 ≠ .init ∧ Instr.enq 1 ≠ .svc := by decide
/-- The same with `SVC`: it answers, and the byte received is `TERM`. -/
theorem witness_FrameIsHeldUntilAppendOrClear_svc :
    (withAnswers held false (some 0x0D)).ibuf.read held.len = some NUL ∧
      (nextOf (exec .svc (withAnswers held false (some 0x0D)))).isSome = true ∧
      (withAnswers held false (some 0x0D)).periph.rx = some held.cfg.term := by decide

end Sys2Proof.Tests
end

/-! State facts (10_state.md): what the occupancy counts, what `RDREG` reads, what each half of `SVC` writes, and which
command writes which register. -/

namespace Sys2Proof.Machine

/-! ### Occupancy (R34 to R36) -/

section Occupancy

variable {s : State}

/-- Occupancy is 0 exactly on the empty channel. -/
theorem ocount_eq_zero_iff (h : Inv s) : s.ocount = 0 ↔ s.widx = s.ridx := by
  have hw := h.widx_lt
  have hr := h.ridx_lt
  rw [ocount_eq s hw hr]
  split <;> omega

/-- Occupancy is `C - 1` exactly on the full channel: one slot is sacrificed. -/
theorem ocount_eq_top_iff (h : Inv s) :
    s.ocount = s.cfg.capacity - 1 ↔ (s.widx + 1) % s.cfg.capacity = s.ridx := by
  have hw := h.widx_lt
  have hr := h.ridx_lt
  have hnext := nextIndex_eq s.cfg s.widx hw
  unfold nextIndex at hnext
  rw [ocount_eq s hw hr, hnext]
  split <;> split <;> omega

/-- The channel is never both empty and full, since `0 ≠ C - 1`. -/
theorem not_empty_and_full (h : Inv s) :
    ¬ (s.widx = s.ridx ∧ (s.widx + 1) % s.cfg.capacity = s.ridx) := by
  rintro ⟨hempty, hfull⟩
  have hzero := (ocount_eq_zero_iff h).2 hempty
  have htop := (ocount_eq_top_iff h).2 hfull
  have hcap := capacity_bounds s.cfg h.cfg_legal
  omega

@[simp] theorem pending_length (s : State) : s.pending.length = s.ocount := by simp [State.pending]

theorem pending_getElem? (s : State) (n : Nat) (hn : n < s.ocount) :
    s.pending[n]? = some (s.obuf.read ((s.ridx + n) % s.cfg.capacity)) := by
  simp [State.pending, hn]

theorem isSome_of_mem_pending (h : Inv s) {c : Option Byte} (hc : c ∈ s.pending) : c.isSome = true := by
  obtain ⟨n, hn, rfl⟩ := List.mem_map.1 hc
  exact h.pending_held n (List.mem_range.1 hn)

end Occupancy

/-- Settles O18, from the occupancy without `mod` (`ocount_eq`) and the invariant's pending cells. -/
theorem occupancyCountsPendingBytes : Obligations.OccupancyCountsPendingBytes := by
  intro s h
  exact ⟨rfl, Nat.le_sub_one_of_lt (ocount_lt s), ocount_eq_zero_iff h, ocount_eq_top_iff h, not_empty_and_full h,
    pending_length s, fun _ hc => isSome_of_mem_pending h hc, pending_getElem? s⟩

/-! ### What the halves of `SVC` write (R54, R56, R103, R120) -/

/-- The drain step writes `RIDX` and `TXLOG` only. -/
theorem drainStep_frame (ready : Bool) (s t : State) (tx : Bool) (h : drainStep ready s = .ok (tx, t)) :
    t = { s with ridx := t.ridx, txlog := t.txlog } := by
  obtain ⟨-, rfl, -⟩ | ⟨-, -, -, -, b, -, rfl⟩ := drainStep_ok ready s t tx h <;> rfl

/-- The bit `tx` counts the bytes that the drain step writes to the peripheral. -/
theorem drainStep_sent (ready : Bool) (s t : State) (tx : Bool) (h : drainStep ready s = .ok (tx, t)) :
    ∃ sent : List Byte, t.txlog = s.txlog ++ sent ∧ sent.length = tx.toNat := by
  obtain ⟨rfl, rfl, -⟩ | ⟨rfl, -, -, -, b, -, rfl⟩ := drainStep_ok ready s t tx h
  · exact ⟨[], by simp⟩
  · exact ⟨[b], by simp⟩

/-- The receive step writes the Input Framer and `RXLOG` only. -/
theorem receiveStep_frame (answer : Option Byte) (s t : State) (rx fr : Bool)
    (h : receiveStep answer s = .ok (rx, fr, t)) :
    t = { s with ibuf := t.ibuf, len := t.len, fstate := t.fstate, rxlog := t.rxlog } := by
  obtain ⟨-, -, -, rfl⟩ | ⟨-, -, -, -, rfl⟩ | ⟨b, -, -, -, -, -, rfl⟩ | ⟨b, -, -, -, -, -, rfl⟩ :=
    receiveStep_ok answer s t rx fr h <;> rfl

/-- The bit `rx` counts the bytes that the receive step reads from the peripheral. -/
theorem receiveStep_got (answer : Option Byte) (s t : State) (rx fr : Bool)
    (h : receiveStep answer s = .ok (rx, fr, t)) :
    ∃ got : List Byte, t.rxlog = s.rxlog ++ got ∧ got.length = rx.toNat := by
  obtain ⟨-, rfl, -, rfl⟩ | ⟨-, rfl, -, -, rfl⟩ | ⟨b, -, -, -, rfl, -, rfl⟩ | ⟨b, -, -, -, rfl, -, rfl⟩ :=
    receiveStep_ok answer s t rx fr h
  · exact ⟨[], by simp⟩
  · exact ⟨[s.cfg.term], by simp⟩
  · exact ⟨[b], by simp⟩
  · exact ⟨[b], by simp⟩

/-- `SVC` writes `RIDX`, the Input Framer, the peripheral's logs and the responses only. -/
theorem execSvc_frame (s t : State) (h : execSvc s = .next t) :
    t = { s with
      ridx := t.ridx, txlog := t.txlog, ibuf := t.ibuf, len := t.len, fstate := t.fstate, rxlog := t.rxlog,
      responses := t.responses } := by
  obtain ⟨tx, s1, rx, fr, s2, hd, hr, rfl⟩ := execSvc_next s t h
  rw [receiveStep_frame _ _ _ _ _ hr, drainStep_frame _ _ _ _ hd]
  rfl

/-- What `SVC` sends, gets and answers: as many bytes each way as the bits `TX` and `RX` say. -/
theorem execSvc_logs (s t : State) (h : execSvc s = .next t) :
    ∃ (sent got : List Byte) (tx rx fr : Bool), t.txlog = s.txlog ++ sent ∧ t.rxlog = s.rxlog ++ got ∧
      sent.length = tx.toNat ∧ got.length = rx.toNat ∧
      t.responses = s.responses ++ [Response.toWord { rx := rx, tx := tx, f := fr }] := by
  obtain ⟨tx, s1, rx, fr, s2, hd, hr, rfl⟩ := execSvc_next s t h
  have hs1 := drainStep_frame _ _ _ _ hd
  have hs2 := receiveStep_frame _ _ _ _ _ hr
  obtain ⟨sent, htx, hsent⟩ := drainStep_sent _ _ _ _ hd
  obtain ⟨got, hrx, hgot⟩ := receiveStep_got _ _ _ _ _ hr
  refine ⟨sent, got, tx, rx, fr, ?_, ?_, hsent, hgot, ?_⟩
  · rw [State.respond_txlog, hs2, htx]
  · rw [State.respond_rxlog, hrx, hs1]
  · rw [State.respond_responses, hs2, hs1]

/-- Settles O31: each half of `SVC` calls the peripheral as often as its bit says. -/
theorem serviceCallsPeripheralAtMostOnce : Obligations.ServiceCallsPeripheralAtMostOnce := by
  intro s t h
  obtain ⟨sent, got, tx, rx, fr, htx, hrx, hsent, hgot, hresp⟩ := execSvc_logs s t h
  exact ⟨sent, got, _, htx, hrx, hsent ▸ Bool.toNat_le tx, hgot ▸ Bool.toNat_le rx, hresp,
    by rw [toWord_tx, hsent, Bool.toNat_eq_one], by rw [toWord_rx, hgot, Bool.toNat_eq_one]⟩

/-! ### The register view (R44 to R49) -/

@[simp] theorem sameCells_refl (m : Memory) : SameCells m m := fun _ => rfl

/-- A response and nothing else: the block is as it was. -/
theorem blockKept_respond (s : State) (r : Response) : BlockKept s (s.respond r) :=
  ⟨⟨rfl, rfl, sameCells_refl _⟩, ⟨rfl, rfl, sameCells_refl _⟩, ⟨rfl, rfl⟩, ⟨rfl, rfl, rfl, rfl⟩⟩

/-- A recorded fault and a response: the block is as it was. -/
theorem blockKept_recordFault_respond (s : State) (f : Fault) (r : Response) :
    BlockKept s ((s.recordFault f).respond r) :=
  ⟨⟨rfl, rfl, sameCells_refl _⟩, ⟨rfl, rfl, sameCells_refl _⟩, ⟨rfl, rfl⟩, ⟨rfl, rfl, rfl, rfl⟩⟩

theorem blockKept_takeIllegalCommand (s : State) (cmd : Word) : BlockKept s (s.takeIllegalCommand cmd) :=
  blockKept_recordFault_respond s (.illegalCommand cmd) { err := true }

/-- `RDREG` in every state: the register's value, zero-extended, is the response (R161). -/
theorem exec_rdreg (s : State) (r : Reg) :
    exec (.rdreg r) s = .next (s.respond { data := s.regView r }) := rfl

theorem respond_data_responses (s : State) (b : Byte) :
    (s.respond { data := b }).responses = s.responses ++ [b.setWidth 16] := by
  rw [State.respond_responses, toWord_data_only]

/-- A number below `C` is read back from its byte: `C ≤ 256`. -/
theorem toNat_zext8_of_lt_capacity {c : Config} (hc : c.Legal) {n : Nat} (hn : n < c.capacity) :
    (zext8 n).toNat = n :=
  toNat_zext8 n (hn.trans_le (capacity_bounds c hc).2)

/-- `K ≤ 8` is read back from its byte. -/
theorem toNat_zext8_k {c : Config} (hc : c.Legal) : (zext8 c.k).toNat = c.k :=
  toNat_zext8 c.k (hc.2.trans_lt (by decide))

theorem Inv.len_lt {s : State} (h : Inv s) : s.len < s.cfg.capacity := by
  have hlen := h.len_le
  have hcap := capacity_bounds s.cfg h.cfg_legal
  omega

@[simp] theorem FState.bit_eq_true_iff (f : FState) : f.bit = true ↔ f = .frameReady := by
  cases f <;> decide

@[simp] theorem oempty_resetWith (c : Config) : (State.resetWith c).oempty = true := rfl

/-- The channel is not full at reset: `C > 1`. -/
theorem ofull_resetWith {c : Config} (hc : c.Legal) : (State.resetWith c).ofull = false := by
  have hcap := capacity_bounds c hc
  rw [← Bool.not_eq_true, ofull_iff, State.resetWith_widx, State.resetWith_cfg, State.resetWith_ridx,
    Nat.mod_eq_of_lt (by omega)]
  decide

@[simp] theorem ocount_resetWith (c : Config) : (State.resetWith c).ocount = 0 := by
  simp [State.ocount]

/-- `STATUS` at reset: `OEMPTY` alone. -/
theorem status_resetWith {c : Config} (hc : c.Legal) : (State.resetWith c).status = 0x01#8 := by
  simp only [State.status, State.resetWith_fstate, FState.bit, ofull_resetWith hc, oempty_resetWith]
  decide

/-- Settles O36, register by register: an index, `LEN`, `K` and the occupancy fit a byte, and `STATUS` is its bits. -/
theorem rdregReadsRegisterView : Obligations.RdregReadsRegisterView := by
  constructor
  · intro s r h
    refine ⟨_, s.regView r, exec_rdreg s r, blockKept_respond s _, rfl, respond_data_responses s _, ?_⟩
    cases r with
    | widx => exact toNat_zext8_of_lt_capacity h.cfg_legal h.widx_lt
    | ridx => exact toNat_zext8_of_lt_capacity h.cfg_legal h.ridx_lt
    | len => exact toNat_zext8_of_lt_capacity h.cfg_legal h.len_lt
    | status =>
      simp only [State.regView, status_oempty, status_ofull, status_fstate, status_reserved, oempty_iff, ofull_iff,
        FState.bit_eq_true_iff, and_self]
    | caplog => exact toNat_zext8_k h.cfg_legal
    | termreg => rfl
    | ocount => exact toNat_zext8_of_lt_capacity h.cfg_legal (ocount_lt s)
  · intro c r hc
    refine ⟨_, ((State.resetWith c).regView r).setWidth 16, exec_rdreg _ r, respond_data_responses _ _, ?_⟩
    cases r with
    | widx | ridx | len => rfl
    | status => simp [State.regView, status_resetWith hc]
    | caplog =>
      calc ((zext8 c.k).setWidth 16).toNat = (zext8 c.k).toNat := BitVec.toNat_setWidth_of_le (by decide)
        _ = c.k := toNat_zext8_k hc
    | termreg => rfl
    | ocount => simp [State.regView, zext8]

/-! ### Which command writes what (R50) -/

/-- `RDBUF` leaves the block as it was, whatever the cell holds. -/
theorem execRdbuf_blockKept (ix : Byte) (s t : State) (h : execRdbuf ix s = .next t) : BlockKept s t := by
  obtain ⟨b, -, -, e⟩ | ⟨-, -, e⟩ | ⟨-, e⟩ := execRdbuf_cases ix s <;>
    rw [e] at h <;> obtain rfl := Host.Outcome.next.inj h
  · exact blockKept_respond s _
  · exact blockKept_recordFault_respond s _ _
  · exact blockKept_takeIllegalCommand s _

/-- `ENQ` writes `OBUF`, `WIDX` and the responses only. -/
theorem execEnq_frame (b : Byte) (s t : State) (h : execEnq b s = .next t) :
    t = { s with obuf := t.obuf, widx := t.widx, responses := t.responses } := by
  obtain ⟨-, rfl⟩ | ⟨-, -, rfl⟩ := execEnq_next b s t h <;> rfl

/-- An `ENQ` that moves `WIDX` found the channel not full. -/
theorem execEnq_notFull_of_widx_ne (b : Byte) (s t : State) (h : execEnq b s = .next t) (hw : t.widx ≠ s.widx) :
    (s.widx + 1) % s.cfg.capacity ≠ s.ridx := by
  obtain ⟨-, rfl⟩ | ⟨hroom, -, rfl⟩ := execEnq_next b s t h
  · exact absurd rfl hw
  · rw [Ne, ← ofull_iff, hroom]
    decide

/-- Settles O37, command by command, from what each command writes. -/
theorem onlyListedWritersChangeState : Obligations.OnlyListedWritersChangeState := by
  intro i s t h
  cases i with
  | init =>
    obtain rfl := Host.Outcome.next.inj h
    simp
  | enq b =>
    have hframe := execEnq_frame b s t h
    refine ⟨fun hw => .inr ⟨b, rfl, execEnq_notFull_of_widx_ne b s t h hw⟩, ?_⟩
    rw [hframe]
    simp
  | svc =>
    have hframe := execSvc_frame s t h
    rw [hframe]
    simp
  | clr =>
    obtain rfl := Host.Outcome.next.inj h
    simp
  | rdbuf ix =>
    obtain ⟨⟨hw, hr, ho⟩, ⟨hl, hf, hi⟩, -, -⟩ := execRdbuf_blockKept ix s t h
    simp [hw, hr, ho, hl, hf, hi]
  | rdreg r =>
    obtain rfl := Host.Outcome.next.inj h
    simp

end Sys2Proof.Machine

/-! Memory facts (20_memory.md): the two halves of `SVC` touch disjoint parts of the state, so their order does not
matter (R74). -/

namespace Sys2Proof.Machine

/-! ### When the halves complete -/

/-- Under the invariant the drain step completes: its one pending cell exists and holds a byte (R36). -/
theorem drainStep_completes (ready : Bool) {s : State} (h : Inv s) : ∃ tx t, drainStep ready s = .ok (tx, t) := by
  by_cases hidle : ready = false ∨ s.widx = s.ridx
  · exact ⟨_, _, drainStep_idle ready s hidle⟩
  · obtain ⟨hready, hne⟩ := not_or.1 hidle
    obtain rfl : ready = true := by simpa using hready
    have hpos : 0 < s.ocount := Nat.pos_of_ne_zero (mt (ocount_eq_zero_iff h).1 hne)
    have hheld := h.pending_held 0 hpos
    rw [Nat.add_zero, Nat.mod_eq_of_lt h.ridx_lt] at hheld
    obtain ⟨b, hb⟩ := Option.isSome_iff_exists.1 hheld
    exact ⟨_, _, drainStep_transmits s b hne h.ridx_lt hb⟩

/-! ### The receive step, case by case (R121 to R123) -/

/-- The terminator completes the frame (R121). -/
theorem receiveStep_terminator (s : State) (h : s.len < s.cfg.capacity) :
    receiveStep (some s.cfg.term) s = .ok (true, true,
      { s with rxlog := s.rxlog ++ [s.cfg.term], ibuf := s.ibuf.write s.len NUL, fstate := .frameReady }) := by
  unfold receiveStep
  simp only [if_true, completeFrame_eq (s.periphRead s.cfg.term) h]
  rfl

/-- Another byte that finds room is appended (R122). -/
theorem receiveStep_room (s : State) (b : Byte) (hb : b ≠ s.cfg.term) (h : s.len < s.cfg.capacity - 2) :
    receiveStep (some b) s = .ok (true, false,
      { s with rxlog := s.rxlog ++ [b], ibuf := s.ibuf.write s.len b, len := s.len + 1 }) := by
  have hroom : s.hasRoom = true := decide_eq_true h
  have hlen : s.len < s.cfg.capacity := Nat.lt_of_lt_of_le h (Nat.sub_le _ _)
  unfold receiveStep
  simp only [if_neg hb, if_pos hroom, appendByte_eq (s.periphRead b) b hlen]
  rfl

/-- Another byte without room is consumed and dropped (R123). -/
theorem receiveStep_noRoom (s : State) (b : Byte) (hb : b ≠ s.cfg.term) (h : ¬ s.len < s.cfg.capacity - 2) :
    receiveStep (some b) s = .ok (true, false, { s with rxlog := s.rxlog ++ [b] }) := by
  have hroom : ¬ s.hasRoom = true := mt of_decide_eq_true h
  unfold receiveStep
  simp only [if_neg hb, if_neg hroom]
  rfl

/-! ### Neither half depends on what the other writes (R74) -/

/-- The receive step depends neither on `RIDX` nor on `TXLOG`: with others in their place it does the same. -/
theorem receiveStep_of_drained (answer : Option Byte) (s t : State) (rx fr : Bool) (ridx : Nat) (txlog : List Byte)
    (h : receiveStep answer s = .ok (rx, fr, t)) :
    receiveStep answer { s with ridx := ridx, txlog := txlog } =
      .ok (rx, fr, { t with ridx := ridx, txlog := txlog }) := by
  obtain ⟨rfl, rfl, rfl, rfl⟩ | ⟨rfl, rfl, rfl, hlen, rfl⟩ | ⟨b, rfl, hb, hroom, rfl, rfl, rfl⟩ |
    ⟨b, rfl, hb, hfull, rfl, rfl, rfl⟩ := receiveStep_ok answer s t rx fr h
  · rfl
  · exact receiveStep_terminator { s with ridx := ridx, txlog := txlog } hlen
  · exact receiveStep_room { s with ridx := ridx, txlog := txlog } b hb hroom
  · exact receiveStep_noRoom { s with ridx := ridx, txlog := txlog } b hb hfull

/-- The drain step depends neither on the Input Framer nor on `RXLOG`: with others in their place it does the same. -/
theorem drainStep_of_received (ready : Bool) (s t : State) (tx : Bool) (ibuf : Memory) (len : Nat) (fstate : FState)
    (rxlog : List Byte) (h : drainStep ready s = .ok (tx, t)) :
    drainStep ready { s with ibuf := ibuf, len := len, fstate := fstate, rxlog := rxlog } =
      .ok (tx, { t with ibuf := ibuf, len := len, fstate := fstate, rxlog := rxlog }) := by
  obtain ⟨rfl, rfl, hidle⟩ | ⟨rfl, rfl, hne, hr, b, hb, rfl⟩ := drainStep_ok ready s t tx h
  · exact drainStep_idle ready _ hidle
  · exact drainStep_transmits { s with ibuf := ibuf, len := len, fstate := fstate, rxlog := rxlog } b hne hr hb

/-- Settles O29: the halves write disjoint fields (their frames), and neither depends on what the other writes. -/
theorem serviceHalvesCommute : Obligations.ServiceHalvesCommute := by
  intro s a h
  obtain ⟨tx, s1, hdrain⟩ := drainStep_completes a.txReady h
  obtain ⟨rx, fr, s2, hreceive⟩ := receiveStep_completes a.rx s h.len_lt
  have hs1 := drainStep_frame _ _ _ _ hdrain
  have hs2 := receiveStep_frame _ _ _ _ _ hreceive
  have hreceiveAfter : receiveStep a.rx s1 = .ok (rx, fr, { s2 with ridx := s1.ridx, txlog := s1.txlog }) := by
    rw [hs1]
    exact receiveStep_of_drained _ _ _ _ _ _ _ hreceive
  have hdrainAfter := drainStep_of_received _ _ _ _ s2.ibuf s2.len s2.fstate s2.rxlog hdrain
  rw [← hs2] at hdrainAfter
  have hsame : { s1 with ibuf := s2.ibuf, len := s2.len, fstate := s2.fstate, rxlog := s2.rxlog } =
      { s2 with ridx := s1.ridx, txlog := s1.txlog } := by
    rw [hs1, hs2]
  rw [hsame] at hdrainAfter
  exact ⟨tx, rx, fr, s1, s2, _, hdrain, hreceiveAfter, hreceive, hdrainAfter⟩

end Sys2Proof.Machine

/-! Encoding facts (30_encoding.md): the words that decode are the words of the well-formed commands, and `legal`, the
opcode map and the list of illegal words each say the same in the fields of a word. -/

namespace Sys2Proof

/-! ### Legal words are the words of the well-formed commands (R80, R82, R84) -/

/-- A word is fixed by its fields: it is a command word exactly when `RSV` is 0 and the other two fields agree. -/
theorem eq_commandWord_iff (w : Word) (op : BitVec 4) (imm : Byte) :
    w = commandWord op imm ↔ rsvField w = 0 ∧ opField w = op ∧ immField w = imm := by
  constructor
  · rintro rfl
    simp
  · rintro ⟨hrsv, rfl, rfl⟩
    exact (commandWord_fields w hrsv).symm

/-- A well-formed command is read back from its word. -/
theorem decode_encode (c : Config) (i : Instr) (h : i.wellFormed c = true) : decode c (encode i) = .ok i := by
  cases i with
  | rdbuf ix =>
    have hix : ix.toNat < c.capacity := of_decide_eq_true h
    simp [decode, encode, decodeRdbuf, hix]
  | rdreg r => simp [decode, encode, decodeRdreg]
  | _ => simp [decode, encode, decodePlain]

/-- A word decodes to a command exactly when the command is well-formed and the word is its encoding. -/
theorem decode_eq_ok_iff (c : Config) (w : Word) (i : Instr) :
    decode c w = .ok i ↔ i.wellFormed c = true ∧ encode i = w := by
  constructor
  · intro h
    obtain ⟨hrsv, ⟨hop, himm, rfl⟩ | ⟨hop, rfl⟩ | ⟨hop, himm, rfl⟩ | ⟨hop, himm, rfl⟩ | ⟨hop, hix, rfl⟩ |
      ⟨hop, r, himm, rfl⟩⟩ := decode_ok_cases c w i h
    · exact ⟨rfl, ((eq_commandWord_iff _ _ _).2 ⟨hrsv, hop, himm⟩).symm⟩
    · exact ⟨rfl, ((eq_commandWord_iff _ _ _).2 ⟨hrsv, hop, rfl⟩).symm⟩
    · exact ⟨rfl, ((eq_commandWord_iff _ _ _).2 ⟨hrsv, hop, himm⟩).symm⟩
    · exact ⟨rfl, ((eq_commandWord_iff _ _ _).2 ⟨hrsv, hop, himm⟩).symm⟩
    · exact ⟨decide_eq_true hix, ((eq_commandWord_iff _ _ _).2 ⟨hrsv, hop, rfl⟩).symm⟩
    · exact ⟨rfl, ((eq_commandWord_iff _ _ _).2 ⟨hrsv, hop, himm⟩).symm⟩
  · rintro ⟨hwf, rfl⟩
    exact decode_encode c i hwf

/-- The word of a command is legal exactly when the command is well-formed. -/
theorem legal_encode_iff (c : Config) (i : Instr) : legal c (encode i) ↔ i.wellFormed c = true := by
  cases i with
  | rdreg r => simp [legal, encode, Instr.wellFormed, regNumber_le r]
  | _ => simp [legal, encode, Instr.wellFormed]

/-- Every legal word is the word of a command. -/
theorem exists_encode_of_legal (c : Config) (w : Word) (h : legal c w) : ∃ i, encode i = w := by
  obtain ⟨hrsv, hform⟩ := h
  have hw := commandWord_fields w hrsv
  obtain ⟨hop, himm⟩ | hop | ⟨hop, himm⟩ | ⟨hop, himm⟩ | ⟨hop, -⟩ | ⟨hop, hreg⟩ := hform
  · exact ⟨.init, by rw [← hw, hop, himm]; rfl⟩
  · exact ⟨.enq (immField w), by rw [← hw, hop]; simp [encode]⟩
  · exact ⟨.svc, by rw [← hw, hop, himm]; rfl⟩
  · exact ⟨.clr, by rw [← hw, hop, himm]; rfl⟩
  · exact ⟨.rdbuf (immField w), by rw [← hw, hop]; simp [encode]⟩
  · obtain ⟨r, hr⟩ := Option.isSome_iff_exists.1 ((regOfNumber_isSome _).2 hreg)
    exact ⟨.rdreg r, by rw [← hw, hop, (regOfNumber_eq_some _ r).1 hr]; rfl⟩

/-- R84: a word decodes exactly when `legal(cmd)` holds. -/
theorem decodes_iff_legal (c : Config) (w : Word) : (∃ i, decode c w = .ok i) ↔ legal c w := by
  simp only [decode_eq_ok_iff, ← legal_encode_iff]
  constructor
  · rintro ⟨i, hlegal, rfl⟩
    exact hlegal
  · intro h
    obtain ⟨i, rfl⟩ := exists_encode_of_legal c w h
    exact ⟨i, h, rfl⟩

/-- Decoding refuses exactly the words that are not legal. -/
theorem refused_iff_not_legal (c : Config) (w : Word) : (∃ e, decode c w = .error e) ↔ ¬ legal c w := by
  rw [← decodes_iff_legal]
  cases decode c w <;> simp

/-- Settles O3. With `K = 8` the capacity is 256, above every byte. -/
theorem decodesExactlyLegalWords : Obligations.DecodesExactlyLegalWords := by
  intro c w
  refine ⟨decodes_iff_legal c w, refused_iff_not_legal c w, fun hk ix => (legal_encode_iff c _).2 ?_⟩
  have hcap : c.capacity = 256 := by rw [Config.capacity, hk]; rfl
  exact decide_eq_true (hcap ▸ ix.isLt)

/-! ### The opcode map (R83) -/

/-- Masking acts on `OP` as on the whole word. -/
theorem opField_and (w m : Word) : opField (w &&& m) = opField w &&& opField m := BitVec.extractLsb'_and

theorem rsvField_and (w m : Word) : rsvField (w &&& m) = rsvField w &&& rsvField m := BitVec.extractLsb'_and

theorem immField_and (w m : Word) : immField (w &&& m) = immField w &&& immField m := BitVec.extractLsb'_and

/-- A row with the mask 0xFFFF fixes the whole word. -/
theorem and_FFFF_eq_iff (w : Word) (op : BitVec 4) :
    w &&& 0xFFFF#16 = commandWord op 0 ↔ rsvField w = 0 ∧ opField w = op ∧ immField w = 0 := by
  have hmask : w &&& 0xFFFF#16 = w := BitVec.and_allOnes
  rw [hmask, eq_commandWord_iff]

/-- A row with the mask 0xFF00 fixes `RSV` and `OP` and leaves `IMM8` free. -/
theorem and_FF00_eq_iff (w : Word) (op : BitVec 4) :
    w &&& 0xFF00#16 = commandWord op 0 ↔ rsvField w = 0 ∧ opField w = op := by
  have hop : opField (w &&& 0xFF00#16) = opField w := (opField_and w _).trans BitVec.and_allOnes
  have hrsv : rsvField (w &&& 0xFF00#16) = rsvField w := (rsvField_and w _).trans BitVec.and_allOnes
  have himm : immField (w &&& 0xFF00#16) = 0 := (immField_and w _).trans BitVec.and_zero
  rw [eq_commandWord_iff, hop, hrsv, himm]
  simp

/-- R83's rows with their "legal when" say of a word what R84 says of its fields. -/
theorem legal_iff_matches (c : Config) (w : Word) :
    legal c w ↔
      (w &&& 0xFFFF#16 = 0x1000#16 ∨ w &&& 0xFF00#16 = 0x2000#16 ∨ w &&& 0xFFFF#16 = 0x3000#16 ∨
        w &&& 0xFFFF#16 = 0x4000#16 ∨ (w &&& 0xFF00#16 = 0x5000#16 ∧ (immField w).toNat < c.capacity) ∨
        (w &&& 0xFF00#16 = 0x6000#16 ∧ (immField w).toNat ≤ 6)) := by
  rw [show (0x1000#16) = commandWord 1 0 from rfl, show (0x2000#16) = commandWord 2 0 from rfl,
    show (0x3000#16) = commandWord 3 0 from rfl, show (0x4000#16) = commandWord 4 0 from rfl,
    show (0x5000#16) = commandWord 5 0 from rfl, show (0x6000#16) = commandWord 6 0 from rfl]
  simp only [and_FFFF_eq_iff, and_FF00_eq_iff, and_assoc, ← and_or_left]
  rfl

/-- The word of a command matches the command's row. -/
theorem rowOf_matches_encode (i : Instr) : (rowOf i).Matches (encode i) := by
  cases i with
  | init => exact Laws.RowMatch.init
  | enq b => exact Laws.RowMatch.enq b
  | svc => exact Laws.RowMatch.svc
  | clr => exact Laws.RowMatch.clr
  | rdbuf ix => exact Laws.RowMatch.rdbuf ix
  | rdreg r => exact Laws.RowMatch.rdreg r

/-- The row of the opcode map that stands at an opcode. -/
def rowAtOpcode (op : BitVec 4) : OpcodeRow :=
  { pattern := commandWord op 0, mask := if op = 2 ∨ op = 5 ∨ op = 6 then 0xFF00 else 0xFFFF }

/-- Every row is fixed by the opcode of its pattern. -/
theorem rowOf_eq_rowAtOpcode (i : Instr) : rowOf i = rowAtOpcode (opField (rowOf i).pattern) := by
  cases i <;> simp only [rowOf] <;> rfl

/-- Every row's mask covers `OP`, so a word that matches a row has the row's opcode. -/
theorem opField_of_matches (i : Instr) (w : Word) (h : (rowOf i).Matches w) :
    opField (rowOf i).pattern = opField w := by
  have hmask : opField (rowOf i).mask = 0xF#4 := by cases i <;> simp only [rowOf] <;> rfl
  rw [← show w &&& (rowOf i).mask = (rowOf i).pattern from h, opField_and, hmask]
  exact BitVec.and_allOnes

/-- No word matches two rows. -/
theorem rowOf_eq_of_matches (i j : Instr) (w : Word) (hi : (rowOf i).Matches w) (hj : (rowOf j).Matches w) :
    rowOf j = rowOf i := by
  rw [rowOf_eq_rowAtOpcode i, rowOf_eq_rowAtOpcode j, opField_of_matches i w hi, opField_of_matches j w hj]

/-- Settles O4: the rows say what `legal` says, and the row of the decoded command is the one row that matches. -/
theorem decodeFollowsOpcodeMap : Obligations.DecodeFollowsOpcodeMap := by
  intro c w
  refine ⟨(decodes_iff_legal c w).trans (legal_iff_matches c w), fun i j hi => ?_⟩
  obtain ⟨-, rfl⟩ := (decode_eq_ok_iff c w i).1 hi
  exact ⟨rowOf_eq_of_matches i j _ (rowOf_matches_encode i), fun hrow => hrow ▸ rowOf_matches_encode i⟩

/-! ### Illegal words (R85) -/

/-- An opcode is one of the six of the map, or one of those that R85 lists as undefined. -/
theorem opcode_cases (op : BitVec 4) :
    op = 1 ∨ op = 2 ∨ op = 3 ∨ op = 4 ∨ op = 5 ∨ op = 6 ∨ (op = 0 ∨ 7 ≤ op.toNat) := by
  revert op
  decide

/-- No word with an undefined opcode is legal: each clause of R84 names one of the six. -/
theorem not_legal_of_undefinedOpcode (c : Config) (w : Word) (h : opField w = 0 ∨ 7 ≤ (opField w).toNat) :
    ¬ legal c w := by
  rintro ⟨-, ⟨hop, -⟩ | hop | ⟨hop, -⟩ | ⟨hop, -⟩ | ⟨hop, -⟩ | ⟨hop, -⟩⟩ <;>
    exact absurd (hop ▸ h) (by decide)

/-- R85: the illegal words are exactly the listed ones; opcode by opcode, the list negates R84's clause. -/
theorem not_legal_iff_listed (c : Config) (w : Word) :
    ¬ legal c w ↔
      (opField w = 0 ∨ 7 ≤ (opField w).toNat) ∨ rsvField w ≠ 0 ∨
        ((opField w = 1 ∨ opField w = 3 ∨ opField w = 4) ∧ immField w ≠ 0) ∨
        (opField w = 5 ∧ c.capacity ≤ (immField w).toNat) ∨
        (opField w = 6 ∧ 7 ≤ (immField w).toNat) := by
  by_cases hrsv : rsvField w = 0#4
  · obtain hop | hop | hop | hop | hop | hop | hop := opcode_cases (opField w)
    · simp [legal, hrsv, hop]
    · simp [legal, hrsv, hop]
    · simp [legal, hrsv, hop]
    · simp [legal, hrsv, hop]
    · simp [legal, hrsv, hop]
    · have hreg : 7 ≤ (immField w).toNat ↔ 6 < (immField w).toNat := Iff.rfl
      simp [legal, hrsv, hop, hreg]
    · exact iff_of_true (not_legal_of_undefinedOpcode c w hop) (.inl hop)
  · simp [legal, hrsv]

/-! ### The examples (R88) -/

/-- Settles O6: each legal example is the word of its command, and each other one fails one check of the decoder. -/
theorem specEncodingExamples : Obligations.SpecEncodingExamples := by
  refine ⟨fun c hc => ?_, fun c w hw => ?_, fun c hk => ?_⟩
  · have hcap : (2#8).toNat < c.capacity := Nat.lt_of_lt_of_le (by decide) (Machine.capacity_bounds c hc).1
    exact ⟨decode_encode c .init rfl, decode_encode c (.enq 0x48) rfl, decode_encode c (.enq 0x0D) rfl,
      decode_encode c .svc rfl, decode_encode c .clr rfl, decode_encode c (.rdbuf 2) (decide_eq_true hcap),
      decode_encode c (.rdreg .status) rfl, decode_encode c (.rdreg .ocount) rfl⟩
  · simp only [List.mem_cons, List.not_mem_nil, or_false] at hw
    obtain rfl | rfl | rfl | rfl | rfl := hw
    · exact ⟨.undefinedOpcode, rfl⟩
    · exact ⟨.undefinedOpcode, rfl⟩
    · exact ⟨.nonzeroOperand, rfl⟩
    · exact ⟨.reservedBits, rfl⟩
    · exact ⟨.registerOutOfRange, rfl⟩
  · have hcap : ¬ (8#8).toNat < c.capacity := by rw [Config.capacity, hk]; decide
    exact ⟨.indexOutOfRange, if_neg hcap⟩

end Sys2Proof

namespace Sys2Proof.Machine

/-- An illegal word takes the illegal-command outcome (R181). -/
theorem issue_of_not_legal (cmd : Word) (s : State) (h : ¬ legal s.cfg cmd) :
    issue cmd s = .next (s.takeIllegalCommand cmd) := by
  obtain ⟨e, he⟩ := (refused_iff_not_legal s.cfg cmd).2 h
  rw [issue, he]

/-- The response of the illegal-command outcome is `ERR` alone. -/
theorem toWord_err_only : Response.toWord { err := true } = 0x8000#16 := rfl

/-- Settles O5: the illegal words are the listed ones, and their outcome only records and responds. -/
theorem listedWordsAreIllegal : Obligations.ListedWordsAreIllegal := by
  intro cmd s
  refine ⟨not_legal_iff_listed s.cfg cmd, fun h => ⟨_, issue_of_not_legal cmd s h, ?_, ?_⟩⟩
  · exact blockKept_takeIllegalCommand s cmd
  · rw [State.takeIllegalCommand_responses, toWord_err_only]

end Sys2Proof.Machine

/-! The Output Channel (40_output_channel.md): what `ENQ` does on a full channel and on one with room, how an accepted byte
joins the pending ones, and a run of `ENQ`s. -/

namespace Sys2Proof.Machine

/-! ### The accepted byte -/

/-- The Output Channel after it accepts `b` (R100): the byte at `OBUF[WIDX]`, and `WIDX` advanced. -/
def State.enqueued (s : State) (b : Byte) : State :=
  { s with obuf := s.obuf.write s.widx b, widx := nextIndex s.cfg s.widx }

@[simp] theorem State.enqueued_cfg (s : State) (b : Byte) : (s.enqueued b).cfg = s.cfg := rfl
@[simp] theorem State.enqueued_obuf (s : State) (b : Byte) : (s.enqueued b).obuf = s.obuf.write s.widx b := rfl
@[simp] theorem State.enqueued_widx (s : State) (b : Byte) : (s.enqueued b).widx = nextIndex s.cfg s.widx := rfl
@[simp] theorem State.enqueued_ridx (s : State) (b : Byte) : (s.enqueued b).ridx = s.ridx := rfl
@[simp] theorem State.enqueued_responses (s : State) (b : Byte) : (s.enqueued b).responses = s.responses := rfl
@[simp] theorem State.enqueued_requests (s : State) (b : Byte) : (s.enqueued b).requests = s.requests := rfl
@[simp] theorem State.respond_ocount (s : State) (r : Response) : (s.respond r).ocount = s.ocount := rfl
@[simp] theorem State.respond_pending (s : State) (r : Response) : (s.respond r).pending = s.pending := rfl

/-- The state in which a command runs (R53, R55): the events after it wait, and its answers stand at the peripheral. -/
def State.withPorts (s : State) (rest : List HostEvent) (a : Answers) : State := { s with requests := rest, periph := a }

@[simp] theorem State.withPorts_cfg (s : State) (rest : List HostEvent) (a : Answers) :
    (s.withPorts rest a).cfg = s.cfg := rfl
@[simp] theorem State.withPorts_requests (s : State) (rest : List HostEvent) (a : Answers) :
    (s.withPorts rest a).requests = rest := rfl
@[simp] theorem State.withPorts_responses (s : State) (rest : List HostEvent) (a : Answers) :
    (s.withPorts rest a).responses = s.responses := rfl
@[simp] theorem State.withPorts_ocount (s : State) (rest : List HostEvent) (a : Answers) :
    (s.withPorts rest a).ocount = s.ocount := rfl
@[simp] theorem State.withPorts_pending (s : State) (rest : List HostEvent) (a : Answers) :
    (s.withPorts rest a).pending = s.pending := rfl

/-- `ENQ` on a full channel drops the byte (R100). -/
theorem exec_enq_full (b : Byte) (s : State) (hfull : s.ofull = true) :
    exec (.enq b) s = .next (s.respond {}) := if_pos hfull

/-- `ENQ` on a channel with room accepts the byte (R100). -/
theorem exec_enq_room (b : Byte) (s : State) (hroom : s.ofull = false) (hw : s.widx < s.cfg.capacity) :
    exec (.enq b) s = .next ((s.enqueued b).respond { f := true }) := by
  have hwrite : s.writeCell .obuf s.widx b = .ok (s.withCells .obuf (s.obuf.write s.widx b)) := if_pos hw
  unfold exec execEnq
  simp only [hroom, hwrite]
  rfl

/-- The response of a dropped byte. -/
theorem toWord_dropped : Response.toWord {} = 0x0000#16 := rfl

/-- The response of an accepted byte is `F` alone. -/
theorem toWord_accepted : Response.toWord { f := true } = 0x0100#16 := rfl

/-- The word of `ENQ b`, as R100 writes it. -/
theorem encode_enq (b : Byte) : encode (.enq b) = 0x2000#16 ||| b.setWidth 16 := rfl

/-- Settles O20, from what `ENQ` does on a full channel and on one with room. -/
theorem enqStoresOrDrops : Obligations.EnqStoresOrDrops := by
  refine ⟨encode_enq, fun c w _ hrsv hlegal => hrsv hlegal.1, fun b s hfull => ?_, fun b s hroom hw => ?_⟩
  · exact ⟨_, exec_enq_full b s ((ofull_iff s).2 hfull), blockKept_respond s _, rfl, by
      rw [State.respond_responses, toWord_dropped]⟩
  · rw [Ne, ← ofull_iff, Bool.not_eq_true] at hroom
    refine ⟨_, exec_enq_room b s hroom hw, Memory.read_write_same _ _ _, fun a ha => Memory.read_write_other _ b ha, rfl,
      rfl, ⟨rfl, rfl, sameCells_refl _⟩, ⟨rfl, rfl⟩, ⟨rfl, rfl, rfl, rfl⟩, rfl, ?_⟩
    rw [State.respond_responses, State.enqueued_responses, toWord_accepted]

/-- Settles O22: the drain step is idle on an empty channel. -/
theorem drainOnEmptyDoesNothing : Obligations.DrainOnEmptyDoesNothing :=
  fun ready s hempty => drainStep_idle ready s (.inr hempty)

/-! ### The accepted byte is the youngest pending one (R36, R100) -/

section Accepted

variable {s : State}

/-- Full is the occupancy `C - 1`. -/
theorem ofull_iff_ocount (h : Inv s) : s.ofull = true ↔ s.ocount = s.cfg.capacity - 1 :=
  (ofull_iff s).trans (ocount_eq_top_iff h).symm

/-- `WIDX` stands `OCOUNT` cells after `RIDX`. -/
theorem ridx_add_ocount (h : Inv s) : (s.ridx + s.ocount) % s.cfg.capacity = s.widx := by
  have hr := h.ridx_lt
  calc (s.ridx + s.ocount) % s.cfg.capacity
      = (s.ridx + (s.widx + s.cfg.capacity - s.ridx)) % s.cfg.capacity := Nat.add_mod_mod _ _ _
    _ = (s.widx + s.cfg.capacity) % s.cfg.capacity := by congr 1; omega
    _ = s.widx := by rw [Nat.add_mod_right, Nat.mod_eq_of_lt h.widx_lt]

/-- No pending byte stands at `WIDX`: fewer than `C` cells are pending, so none is met twice. -/
theorem pendingIndex_ne_widx (h : Inv s) {n : Nat} (hn : n < s.ocount) :
    (s.ridx + n) % s.cfg.capacity ≠ s.widx := by
  intro heq
  have hmod : s.ridx + n ≡ s.ridx + s.ocount [MOD s.cfg.capacity] := heq.trans (ridx_add_ocount h).symm
  have hsame : n = s.ocount :=
    (Nat.ModEq.add_left_cancel' _ hmod).eq_of_lt_of_lt (hn.trans (ocount_lt s)) (ocount_lt s)
  omega

theorem ocount_enqueued (h : Inv s) (b : Byte) (hroom : s.ofull = false) :
    (s.enqueued b).ocount = s.ocount + 1 := by
  have hw := h.widx_lt
  have hr := h.ridx_lt
  have hnext := nextIndex_eq s.cfg s.widx hw
  have hne : nextIndex s.cfg s.widx ≠ s.ridx := of_decide_eq_false hroom
  rw [ocount_eq s hw hr, ocount_eq (s.enqueued b) (nextIndex_lt _ _) hr, State.enqueued_widx, State.enqueued_ridx,
    State.enqueued_cfg]
  split at hnext <;> split <;> split <;> omega

/-- The accepted byte stands behind the former pending ones, which keep their cells. -/
theorem pending_enqueued (h : Inv s) (b : Byte) (hroom : s.ofull = false) :
    (s.enqueued b).pending = s.pending ++ [some b] := by
  have hkept : ∀ n ∈ List.range s.ocount,
      (s.obuf.write s.widx b).read ((s.ridx + n) % s.cfg.capacity) = s.obuf.read ((s.ridx + n) % s.cfg.capacity) :=
    fun n hn => Memory.read_write_other _ b (pendingIndex_ne_widx h (List.mem_range.1 hn))
  have hnew : (s.obuf.write s.widx b).read ((s.ridx + s.ocount) % s.cfg.capacity) = some b := by
    rw [ridx_add_ocount h, Memory.read_write_same]
  simp only [State.pending, ocount_enqueued h b hroom, List.range_succ, List.map_append, List.map_singleton,
    State.enqueued_obuf, State.enqueued_ridx, State.enqueued_cfg, hnew, List.map_congr_left hkept]

/-! ### `ENQ` keeps the invariant -/

/-- The invariant's clause on the pending cells, from the list of the pending bytes. -/
theorem pendingHeld_of_pending (hp : ∀ c ∈ s.pending, c.isSome = true) (n : Nat) (hn : n < s.ocount) :
    (s.obuf.read ((s.ridx + n) % s.cfg.capacity)).isSome = true :=
  hp _ (List.mem_map_of_mem (List.mem_range.2 hn))

/-- Accepting a byte keeps the invariant. -/
theorem inv_enqueued (h : Inv s) (b : Byte) (hroom : s.ofull = false) : Inv (s.enqueued b) where
  cfg_legal := h.cfg_legal
  widx_lt := nextIndex_lt _ _
  ridx_lt := h.ridx_lt
  len_le := h.len_le
  obuf_wf := Memory.wf_write _ _ _ h.obuf_wf
  obuf_below := Memory.below_write _ _ _ _ h.widx_lt h.obuf_below
  ibuf_wf := h.ibuf_wf
  ibuf_below := h.ibuf_below
  pending_held := by
    refine pendingHeld_of_pending fun c hc => ?_
    rw [pending_enqueued h b hroom, List.mem_append, List.mem_singleton] at hc
    obtain hold | rfl := hc
    · exact isSome_of_mem_pending h hold
    · rfl
  content_held := h.content_held

/-- The invariant does not speak of the responses. -/
theorem inv_respond (h : Inv s) (r : Response) : Inv (s.respond r) :=
  ⟨h.cfg_legal, h.widx_lt, h.ridx_lt, h.len_le, h.obuf_wf, h.obuf_below, h.ibuf_wf, h.ibuf_below, h.pending_held,
    h.content_held⟩

/-- The invariant does not speak of the outside's requests and answers. -/
theorem inv_withPorts (h : Inv s) (rest : List HostEvent) (a : Answers) : Inv (s.withPorts rest a) :=
  ⟨h.cfg_legal, h.widx_lt, h.ridx_lt, h.len_le, h.obuf_wf, h.obuf_below, h.ibuf_wf, h.ibuf_below, h.pending_held,
    h.content_held⟩

end Accepted

/-! ### Runs of `ENQ`s (R105) -/

/-- A step on the request of a well-formed command executes it. -/
theorem step_request (s : State) (i : Instr) (a : Answers) (rest : List HostEvent)
    (hwf : i.wellFormed s.cfg = true) (hq : s.requests = request i a :: rest) :
    step s = exec i (s.withPorts rest a) := by
  simp only [step, advance, State.nextEvent, hq, request, handle, issue, decode_encode s.cfg i hwf, State.withPorts]

/-- A run whose first step answers goes on from there, on every machine of the host. -/
theorem coreRun_succ_of_step (M : Host.Core) (n : Nat) (s u : M.State) (h : M.step s = .next u) :
    M.run (n + 1) s = M.run n u := by
  simp only [Host.Core.run, h]

theorem runFor_succ_of_step (n : Nat) (s u : State) (h : step s = .next u) : runFor (n + 1) s = runFor n u :=
  coreRun_succ_of_step Sys2Proof.core n s u h

/-- A run of `ENQ`s on a channel with `m` free slots accepts the first `m` bytes and drops the others: each accepted byte
takes one slot, and with none left every byte is dropped. -/
theorem runFor_enqs (bs : List (Byte × Answers)) (rest : List HostEvent) (s : State) (m : Nat) (h : Inv s)
    (hfree : s.cfg.capacity - 1 - s.ocount = m)
    (hq : s.requests = bs.map (fun p => request (.enq p.1) p.2) ++ rest) :
    ∃ t, runFor bs.length s = .next t ∧ t.requests = rest ∧
      t.pending = s.pending ++ ((bs.map Prod.fst).take m).map some ∧
      t.responses = s.responses ++ List.replicate (min bs.length m) 0x0100#16 ++
        List.replicate (bs.length - m) 0x0000#16 ∧
      InputKept s t ∧ PeripheralUntouched s t := by
  induction bs generalizing s m with
  | nil => exact ⟨s, rfl, hq, by simp, by simp, ⟨rfl, rfl, sameCells_refl _⟩, ⟨rfl, rfl⟩⟩
  | cons p bs ih =>
    obtain ⟨b, a⟩ := p
    have hocc := ocount_lt s
    have hports := inv_withPorts h (bs.map (fun p => request (.enq p.1) p.2) ++ rest) a
    have hstep := step_request s (.enq b) a _ rfl hq
    cases m with
    | zero =>
      have hfull : s.ofull = true := (ofull_iff_ocount h).2 (by omega)
      have hrun := runFor_succ_of_step bs.length s _ (hstep.trans (exec_enq_full b _ hfull))
      obtain ⟨t, hrun', hrest, hpend, hresp, hin, hper⟩ := ih _ 0 (inv_respond hports {}) hfree rfl
      refine ⟨t, hrun.trans hrun', hrest, hpend, ?_, ⟨hin.len, hin.fstate, hin.ibuf⟩, ⟨hper.txlog, hper.rxlog⟩⟩
      rw [hresp, State.respond_responses, toWord_dropped]
      simp [List.replicate_succ]
    | succ m =>
      have hroom : s.ofull = false := by
        rw [← Bool.not_eq_true, ofull_iff_ocount h]
        omega
      have hrun := runFor_succ_of_step bs.length s _ (hstep.trans (exec_enq_room b _ hroom h.widx_lt))
      have hocc' := ocount_enqueued hports b hroom
      rw [State.withPorts_ocount] at hocc'
      obtain ⟨t, hrun', hrest, hpend, hresp, hin, hper⟩ :=
        ih _ m (inv_respond (inv_enqueued hports b hroom) { f := true })
          (by rw [State.respond_ocount, hocc', State.respond_cfg, State.enqueued_cfg, State.withPorts_cfg]; omega) rfl
      refine ⟨t, hrun.trans hrun', hrest, ?_, ?_, ⟨hin.len, hin.fstate, hin.ibuf⟩, ⟨hper.txlog, hper.rxlog⟩⟩
      · rw [hpend, State.respond_pending, pending_enqueued hports b hroom]
        simp
      · rw [hresp, State.respond_responses, toWord_accepted]
        simp [List.replicate_succ]

/-- Settles O46, by induction on the sequence over the number of free slots (`runFor_enqs`). -/
theorem enqueueSequenceFillsToCapacity : Obligations.EnqueueSequenceFillsToCapacity :=
  fun bs rest s h hq => runFor_enqs bs rest s _ h rfl hq

end Sys2Proof.Machine

/-! The Input Framer (41_input_framer.md): what one `SVC` does with a received byte from a state of the invariant, `CLR`,
how long a completed frame is held, and a run of received bytes up to the terminator. -/

namespace Sys2Proof.Machine

/-! ### `CLR` (R126) -/

/-- A legal word with the opcode of a command without an operand is that command's one word (R82). -/
theorem eq_commandWord_of_legal_plain (c : Config) (w : Word) (op : BitVec 4) (hplain : op = 1 ∨ op = 3 ∨ op = 4)
    (hop : opField w = op) (h : legal c w) : w = commandWord op 0 := by
  obtain ⟨hrsv, hform⟩ := h
  have himm : immField w = 0 := by
    obtain rfl | rfl | rfl := hplain <;> simpa [hop] using hform
  exact (eq_commandWord_iff w op 0).2 ⟨hrsv, hop, himm⟩

/-- `CLR` in every state (R126). -/
theorem exec_clr (s : State) : exec .clr s = .next (s.clearFramer.respond {}) := rfl

/-- A framer that `CLR` cleared is as `CLR` would leave it. -/
theorem blockKept_clr_again (s : State) :
    BlockKept (s.clearFramer.respond {}) ((s.clearFramer.respond {}).clearFramer.respond {}) :=
  ⟨⟨rfl, rfl, sameCells_refl _⟩, ⟨rfl, rfl, sameCells_refl _⟩, ⟨rfl, rfl⟩, ⟨rfl, rfl, rfl, rfl⟩⟩

/-- Settles O32, from what `CLR` does in every state and from R82's only word of a command without an operand. -/
theorem clrClearsOnlyTheFramer : Obligations.ClrClearsOnlyTheFramer := by
  refine ⟨rfl, fun c w hop hne hlegal => hne ?_, fun s => ?_⟩
  · exact eq_commandWord_of_legal_plain c w 4 (.inr (.inr rfl)) hop hlegal
  · refine ⟨_, exec_clr s, rfl, rfl, sameCells_refl _, ⟨rfl, rfl, sameCells_refl _⟩, ⟨rfl, rfl⟩, ⟨rfl, rfl, rfl, rfl⟩, rfl,
      ?_, _, exec_clr _, blockKept_clr_again s⟩
    rw [State.respond_responses, State.clearFramer_responses, toWord_dropped]

/-! ### The content (R39) -/

section Content

variable {s t : State}

@[simp] theorem frame_length (s : State) : s.frame.length = s.len := by simp [State.frame]

/-- The content is fixed by `LEN` and the cells below it. -/
theorem frame_congr (hlen : t.len = s.len) (hcells : ∀ n, n < s.len → t.ibuf.read n = s.ibuf.read n) :
    t.frame = s.frame := by
  unfold State.frame
  rw [hlen]
  exact List.map_congr_left fun n hn => hcells n (List.mem_range.1 hn)

theorem isSome_of_mem_frame (h : Inv s) {c : Option Byte} (hc : c ∈ s.frame) : c.isSome = true := by
  obtain ⟨n, hn, rfl⟩ := List.mem_map.1 hc
  exact (h.content_held n (List.mem_range.1 hn)).1

end Content

/-- A write changes no cell but its own. -/
theorem sameCellsBut_write (m : Memory) (i : Nat) (b : Byte) : SameCellsBut i m (m.write i b) :=
  fun _ ha => Memory.read_write_other m b ha

/-- Writing the byte that a cell holds changes no cell. -/
theorem sameCells_write_of_read_eq (m : Memory) (i : Nat) (b : Byte) (h : m.read i = some b) :
    SameCells m (m.write i b) := by
  intro a
  rw [Memory.read_write]
  split
  · next hia => rw [← hia, h]
  · rfl

/-! ### What a received byte does (R121 to R123) -/

/-- `TERM` consumed (R121): `NUL` at `IBUF[LEN]`, and the frame is ready. -/
def State.completed (s : State) : State :=
  { s with rxlog := s.rxlog ++ [s.cfg.term], ibuf := s.ibuf.write s.len NUL, fstate := .frameReady }

@[simp] theorem State.completed_ibuf (s : State) : s.completed.ibuf = s.ibuf.write s.len NUL := rfl
@[simp] theorem State.completed_rxlog (s : State) : s.completed.rxlog = s.rxlog ++ [s.cfg.term] := rfl
@[simp] theorem State.completed_responses (s : State) : s.completed.responses = s.responses := rfl

/-- Another byte consumed with room (R122): it stands at `IBUF[LEN]`, and `LEN` is one more. -/
def State.appended (s : State) (b : Byte) : State :=
  { s with rxlog := s.rxlog ++ [b], ibuf := s.ibuf.write s.len b, len := s.len + 1 }

@[simp] theorem State.appended_ibuf (s : State) (b : Byte) : (s.appended b).ibuf = s.ibuf.write s.len b := rfl
@[simp] theorem State.appended_len (s : State) (b : Byte) : (s.appended b).len = s.len + 1 := rfl
@[simp] theorem State.appended_responses (s : State) (b : Byte) : (s.appended b).responses = s.responses := rfl

/-- A byte other than `TERM` consumed: appended with room (R122), dropped without (R123). -/
def State.received (s : State) (b : Byte) : State :=
  if s.len < s.cfg.capacity - 2 then s.appended b else s.periphRead b

theorem received_of_room (s : State) (b : Byte) (h : s.len < s.cfg.capacity - 2) : s.received b = s.appended b :=
  if_pos h

theorem received_of_noRoom (s : State) (b : Byte) (h : ¬ s.len < s.cfg.capacity - 2) :
    s.received b = s.periphRead b :=
  if_neg h

@[simp] theorem State.received_cfg (s : State) (b : Byte) : (s.received b).cfg = s.cfg := by
  unfold State.received
  split <;> rfl

@[simp] theorem State.received_rxlog (s : State) (b : Byte) : (s.received b).rxlog = s.rxlog ++ [b] := by
  unfold State.received
  split <;> rfl

@[simp] theorem State.received_requests (s : State) (b : Byte) : (s.received b).requests = s.requests := by
  unfold State.received
  split <;> rfl

/-- The receive step on a byte other than `TERM`, with room or without. -/
theorem receiveStep_received (s : State) (b : Byte) (hb : b ≠ s.cfg.term) :
    receiveStep (some b) s = .ok (true, false, s.received b) := by
  by_cases hroom : s.len < s.cfg.capacity - 2
  · rw [received_of_room s b hroom]
    exact receiveStep_room s b hb hroom
  · rw [received_of_noRoom s b hroom]
    exact receiveStep_noRoom s b hb hroom

theorem frame_completed (s : State) : s.completed.frame = s.frame :=
  frame_congr rfl fun _ hn => Memory.read_write_other _ _ (Nat.ne_of_lt hn)

theorem frame_appended (s : State) (b : Byte) : (s.appended b).frame = s.frame ++ [some b] := by
  have hkept : ∀ n ∈ List.range s.len, (s.ibuf.write s.len b).read n = s.ibuf.read n :=
    fun n hn => Memory.read_write_other _ b (Nat.ne_of_lt (List.mem_range.1 hn))
  simp only [State.frame, State.appended_len, State.appended_ibuf, List.range_succ, List.map_append,
    List.map_singleton, Memory.read_write_same, List.map_congr_left hkept]

section Received

variable {s : State}

/-- A received byte joins the content as far as `C - 2` bytes fit (R122, R123, R131). -/
theorem frame_received (h : Inv s) (b : Byte) :
    (s.received b).frame = (s.frame ++ [some b]).take (s.cfg.capacity - 2) := by
  by_cases hroom : s.len < s.cfg.capacity - 2
  · rw [received_of_room s b hroom, frame_appended, List.take_of_length_le]
    simpa using hroom
  · have hlen : s.frame.length = s.cfg.capacity - 2 :=
      (frame_length s).trans (Nat.le_antisymm h.len_le (Nat.le_of_not_lt hroom))
    rw [received_of_noRoom s b hroom, List.take_left' hlen]
    rfl

theorem len_received (h : Inv s) (b : Byte) : (s.received b).len = min (s.len + 1) (s.cfg.capacity - 2) := by
  rw [← frame_length, frame_received h, List.length_take, List.length_append, frame_length, List.length_singleton,
    Nat.min_comm]

/-- `IBUF[LEN]` is never the last cell, `IBUF[C-1]`. -/
theorem Inv.len_lt_last (h : Inv s) : s.len < s.cfg.capacity - 1 := by
  have hlen := h.len_le
  have hcap := capacity_bounds s.cfg h.cfg_legal
  omega

/-- Completing a frame keeps the invariant: the `NUL` stands behind the content and below `IBUF[C-1]`. -/
theorem inv_completed (h : Inv s) : Inv s.completed where
  cfg_legal := h.cfg_legal
  widx_lt := h.widx_lt
  ridx_lt := h.ridx_lt
  len_le := h.len_le
  obuf_wf := h.obuf_wf
  obuf_below := h.obuf_below
  ibuf_wf := Memory.wf_write _ _ _ h.ibuf_wf
  ibuf_below := Memory.below_write _ _ _ _ h.len_lt_last h.ibuf_below
  pending_held := h.pending_held
  content_held := by
    intro n (hn : n < s.len)
    rw [State.completed_ibuf, Memory.read_write_other _ _ (Nat.ne_of_lt hn)]
    exact h.content_held n hn

/-- Appending a byte other than `TERM` keeps the invariant. -/
theorem inv_appended (h : Inv s) (b : Byte) (hb : b ≠ s.cfg.term) (hroom : s.len < s.cfg.capacity - 2) :
    Inv (s.appended b) where
  cfg_legal := h.cfg_legal
  widx_lt := h.widx_lt
  ridx_lt := h.ridx_lt
  len_le := hroom
  obuf_wf := h.obuf_wf
  obuf_below := h.obuf_below
  ibuf_wf := Memory.wf_write _ _ _ h.ibuf_wf
  ibuf_below := Memory.below_write _ _ _ _ h.len_lt_last h.ibuf_below
  pending_held := h.pending_held
  content_held := by
    intro n hn
    rw [State.appended_ibuf]
    obtain hold | rfl := Nat.lt_succ_iff_lt_or_eq.1 hn
    · rw [Memory.read_write_other _ b (Nat.ne_of_lt hold)]
      exact h.content_held n hold
    · rw [Memory.read_write_same]
      exact ⟨rfl, fun heq => hb (Option.some.inj heq)⟩

/-- The invariant does not speak of `RXLOG`. -/
theorem inv_periphRead (h : Inv s) (b : Byte) : Inv (s.periphRead b) :=
  ⟨h.cfg_legal, h.widx_lt, h.ridx_lt, h.len_le, h.obuf_wf, h.obuf_below, h.ibuf_wf, h.ibuf_below, h.pending_held,
    h.content_held⟩

theorem inv_received (h : Inv s) (b : Byte) (hb : b ≠ s.cfg.term) : Inv (s.received b) := by
  by_cases hroom : s.len < s.cfg.capacity - 2
  · rw [received_of_room s b hroom]
    exact inv_appended h b hb hroom
  · rw [received_of_noRoom s b hroom]
    exact inv_periphRead h b

/-- Clearing the Input Framer keeps the invariant: there is no content left to speak of. -/
theorem inv_clearFramer (h : Inv s) : Inv s.clearFramer :=
  ⟨h.cfg_legal, h.widx_lt, h.ridx_lt, Nat.zero_le _, h.obuf_wf, h.obuf_below, h.ibuf_wf, h.ibuf_below, h.pending_held,
    fun n hn => absurd hn (Nat.not_lt_zero n)⟩

end Received

/-! ### The drain step that comes first (R103) -/

/-- A state with the two fields replaced that a drain step writes. -/
def State.drained (s : State) (ridx : Nat) (txlog : List Byte) : State := { s with ridx := ridx, txlog := txlog }

@[simp] theorem State.drained_cfg (s : State) (r : Nat) (tx : List Byte) : (s.drained r tx).cfg = s.cfg := rfl
@[simp] theorem State.drained_widx (s : State) (r : Nat) (tx : List Byte) : (s.drained r tx).widx = s.widx := rfl
@[simp] theorem State.drained_ridx (s : State) (r : Nat) (tx : List Byte) : (s.drained r tx).ridx = r := rfl
@[simp] theorem State.drained_len (s : State) (r : Nat) (tx : List Byte) : (s.drained r tx).len = s.len := rfl
@[simp] theorem State.drained_rxlog (s : State) (r : Nat) (tx : List Byte) : (s.drained r tx).rxlog = s.rxlog := rfl
@[simp] theorem State.drained_responses (s : State) (r : Nat) (tx : List Byte) :
    (s.drained r tx).responses = s.responses := rfl
@[simp] theorem State.drained_requests (s : State) (r : Nat) (tx : List Byte) :
    (s.drained r tx).requests = s.requests := rfl
@[simp] theorem State.drained_frame (s : State) (r : Nat) (tx : List Byte) : (s.drained r tx).frame = s.frame := rfl
@[simp] theorem State.respond_frame (s : State) (r : Response) : (s.respond r).frame = s.frame := rfl
@[simp] theorem State.withPorts_frame (s : State) (rest : List HostEvent) (a : Answers) :
    (s.withPorts rest a).frame = s.frame := rfl
@[simp] theorem State.withPorts_len (s : State) (rest : List HostEvent) (a : Answers) :
    (s.withPorts rest a).len = s.len := rfl
@[simp] theorem State.withPorts_rxlog (s : State) (rest : List HostEvent) (a : Answers) :
    (s.withPorts rest a).rxlog = s.rxlog := rfl

section Service

variable {s : State}

/-- Transmitting the oldest pending byte leaves one pending byte less. -/
theorem ocount_drained (h : Inv s) (hne : s.widx ≠ s.ridx) (txlog : List Byte) :
    (s.drained (nextIndex s.cfg s.ridx) txlog).ocount + 1 = s.ocount := by
  have hw := h.widx_lt
  have hr := h.ridx_lt
  have hnext := nextIndex_eq s.cfg s.ridx hr
  rw [ocount_eq s hw hr, ocount_eq (s.drained (nextIndex s.cfg s.ridx) txlog) hw (nextIndex_lt _ _),
    State.drained_widx, State.drained_ridx, State.drained_cfg]
  split at hnext <;> split <;> split <;> omega

/-- Transmitting the oldest pending byte keeps the invariant: the others were pending before. -/
theorem inv_drained (h : Inv s) (hne : s.widx ≠ s.ridx) (txlog : List Byte) :
    Inv (s.drained (nextIndex s.cfg s.ridx) txlog) where
  cfg_legal := h.cfg_legal
  widx_lt := h.widx_lt
  ridx_lt := nextIndex_lt _ _
  len_le := h.len_le
  obuf_wf := h.obuf_wf
  obuf_below := h.obuf_below
  ibuf_wf := h.ibuf_wf
  ibuf_below := h.ibuf_below
  pending_held := by
    intro n hn
    have hocc := ocount_drained h hne txlog
    have hsame : (nextIndex s.cfg s.ridx + n) % s.cfg.capacity = (s.ridx + (n + 1)) % s.cfg.capacity := by
      rw [nextIndex, Nat.mod_add_mod]
      congr 1
      omega
    have hheld := h.pending_held (n + 1) (by omega)
    rwa [← hsame] at hheld
  content_held := h.content_held

/-- Under the invariant the drain step completes, keeps the invariant and writes `RIDX` and `TXLOG` only. -/
theorem drainStep_drained (h : Inv s) (ready : Bool) :
    ∃ tx ridx txlog, drainStep ready s = .ok (tx, s.drained ridx txlog) ∧ Inv (s.drained ridx txlog) := by
  obtain ⟨tx, t, hdrain⟩ := drainStep_completes ready h
  obtain ⟨-, rfl, -⟩ | ⟨-, -, hne, -, b, -, rfl⟩ := drainStep_ok ready s t tx hdrain
  · exact ⟨tx, t.ridx, t.txlog, hdrain, h⟩
  · exact ⟨tx, nextIndex s.cfg s.ridx, s.txlog ++ [b], hdrain, inv_drained h hne _⟩

/-! ### `SVC` under the invariant (R140) -/

/-- `SVC` does what the receive step does after some drain step. -/
theorem exec_svc_of_receive (h : Inv s) :
    ∃ tx ridx txlog, Inv (s.drained ridx txlog) ∧
      ∀ rx fr t, receiveStep s.periph.rx (s.drained ridx txlog) = .ok (rx, fr, t) →
        exec .svc s = .next (t.respond { rx := rx, tx := tx, f := fr }) := by
  obtain ⟨tx, ridx, txlog, hdrain, hinv⟩ := drainStep_drained h s.periph.txReady
  exact ⟨tx, ridx, txlog, hinv, fun rx fr t => execSvc_of_halves s _ t tx rx fr hdrain⟩

/-- An `SVC` that consumes `TERM` (R121). -/
theorem exec_svc_terminator (h : Inv s) (hrx : s.periph.rx = some s.cfg.term) :
    ∃ tx ridx txlog, Inv (s.drained ridx txlog) ∧
      exec .svc s = .next ((s.drained ridx txlog).completed.respond { rx := true, tx := tx, f := true }) := by
  obtain ⟨tx, ridx, txlog, hinv, hexec⟩ := exec_svc_of_receive h
  refine ⟨tx, ridx, txlog, hinv, hexec true true _ ?_⟩
  rw [hrx]
  exact receiveStep_terminator _ hinv.len_lt

/-- An `SVC` that consumes another byte (R122, R123). -/
theorem exec_svc_received (h : Inv s) (b : Byte) (hrx : s.periph.rx = some b) (hb : b ≠ s.cfg.term) :
    ∃ tx ridx txlog, Inv (s.drained ridx txlog) ∧
      exec .svc s = .next (((s.drained ridx txlog).received b).respond { rx := true, tx := tx, f := false }) := by
  obtain ⟨tx, ridx, txlog, hinv, hexec⟩ := exec_svc_of_receive h
  refine ⟨tx, ridx, txlog, hinv, hexec true false _ ?_⟩
  rw [hrx]
  exact receiveStep_received _ b hb

/-- An `SVC` that consumes another byte with room (R122). -/
theorem exec_svc_appended (h : Inv s) (b : Byte) (hrx : s.periph.rx = some b) (hb : b ≠ s.cfg.term)
    (hroom : s.len < s.cfg.capacity - 2) :
    ∃ tx ridx txlog,
      exec .svc s = .next (((s.drained ridx txlog).appended b).respond { rx := true, tx := tx, f := false }) := by
  obtain ⟨tx, ridx, txlog, -, hexec⟩ := exec_svc_received h b hrx hb
  rw [received_of_room (s.drained ridx txlog) b hroom] at hexec
  exact ⟨tx, ridx, txlog, hexec⟩

end Service

/-- The response word of `SVC`, as R140 writes it. -/
theorem toWord_svc (rx tx fr : Bool) : Response.toWord { rx := rx, tx := tx, f := fr } = svcResponse rx tx fr := by
  revert rx tx fr
  decide

/-- Settles O23, from what an `SVC` that consumes `TERM` does; the invariant keeps `IBUF[C-1]` empty. -/
theorem terminatorCompletesFrame : Obligations.TerminatorCompletesFrame := by
  intro s h hrx
  obtain ⟨tx, ridx, txlog, hinv, hexec⟩ := exec_svc_terminator h hrx
  refine ⟨_, tx, hexec, Memory.read_write_same _ _ _, sameCellsBut_write _ _ _, rfl, rfl, ?_, ?_, ?_⟩
  · rw [State.respond_frame, frame_completed, State.drained_frame]
  · exact Memory.read_eq_none_of_below _ _ _ (inv_completed hinv).ibuf_below (Nat.le_refl _)
  · rw [State.respond_responses, toWord_svc, State.completed_responses, State.drained_responses]

/-- Settles O24, from what an `SVC` that consumes another byte does with room. -/
theorem byteWithRoomIsAppended : Obligations.ByteWithRoomIsAppended := by
  intro s b h hrx hb hroom
  obtain ⟨tx, ridx, txlog, hexec⟩ := exec_svc_appended h b hrx hb hroom
  refine ⟨_, tx, hexec, Memory.read_write_same _ _ _, sameCellsBut_write _ _ _, rfl, rfl, ?_, ?_⟩
  · rw [State.respond_frame, frame_appended, State.drained_frame]
  · rw [State.respond_responses, toWord_svc, State.appended_responses, State.drained_responses]

/-- Settles O25, from what an `SVC` that consumes another byte does without room. -/
theorem byteWithoutRoomIsDropped : Obligations.ByteWithoutRoomIsDropped := by
  intro s b h hrx hb hfull
  obtain ⟨tx, ridx, txlog, -, hexec⟩ := exec_svc_received h b hrx hb
  rw [received_of_noRoom (s.drained ridx txlog) b (Nat.not_lt.2 hfull.ge)] at hexec
  refine ⟨_, tx, hexec, ⟨rfl, rfl, sameCells_refl _⟩, rfl, ?_⟩
  rw [State.respond_responses, toWord_svc, State.periphRead_responses, State.drained_responses]

/-- Settles O33: after `CLR` there is room, since `C ≥ 4`, so the byte is appended to an empty content. -/
theorem firstByteAfterClearIsWholeContent : Obligations.FirstByteAfterClearIsWholeContent := by
  intro s b ready h hb
  have hclear : Inv (s.clearFramer.respond {}) := inv_respond (inv_clearFramer h) _
  have hroom : 0 < s.cfg.capacity - 2 := by
    have hcap := capacity_bounds s.cfg h.cfg_legal
    omega
  obtain ⟨tx, ridx, txlog, hexec⟩ :=
    exec_svc_appended (inv_withPorts hclear s.requests { txReady := ready, rx := some b }) b rfl hb hroom
  refine ⟨_, _, exec_clr s, hexec, rfl, ?_, fun n hn => ?_⟩
  · rw [State.respond_frame, frame_appended]
    rfl
  · exact Memory.read_write_other s.ibuf b (Nat.ne_of_gt hn)

/-! ### A completed frame is held (R128) -/

/-- `SVC` changes neither `LEN` nor a cell of `IBUF` when it appends no byte and `NUL` stands at `IBUF[LEN]` already. -/
theorem exec_svc_keeps_frame_cells (s t : State) (h : exec .svc s = .next t) (hnul : s.ibuf.read s.len = some NUL)
    (hno : ∀ b, s.periph.rx = some b → b = s.cfg.term ∨ ¬ s.len < s.cfg.capacity - 2) :
    t.len = s.len ∧ SameCells s.ibuf t.ibuf := by
  obtain ⟨tx, s1, rx, fr, s2, hdrain, hreceive, rfl⟩ := execSvc_next s t h
  obtain ⟨ridx, txlog, rfl⟩ : ∃ ridx txlog, s1 = s.drained ridx txlog :=
    ⟨s1.ridx, s1.txlog, drainStep_frame _ _ _ _ hdrain⟩
  obtain ⟨-, -, -, rfl⟩ | ⟨-, -, -, -, rfl⟩ | ⟨b, hrx, hb, hroom, -, -, -⟩ | ⟨b, -, -, -, -, -, rfl⟩ :=
    receiveStep_ok _ _ _ _ _ hreceive
  · exact ⟨rfl, sameCells_refl _⟩
  · exact ⟨rfl, sameCells_write_of_read_eq _ _ _ hnul⟩
  · exact ((hno b hrx).elim hb (fun hfull => hfull hroom)).elim
  · exact ⟨rfl, sameCells_refl _⟩

/-- No command but `CLR`, `INIT` and an `SVC` that appends a byte changes `LEN` or a cell of `IBUF`, once `NUL` stands at
`IBUF[LEN]`. -/
theorem exec_keeps_frame_cells (i : Instr) (s t : State) (h : exec i s = .next t) (hnul : s.ibuf.read s.len = some NUL)
    (hclr : i ≠ .clr) (hinit : i ≠ .init)
    (hno : i = .svc → ∀ b, s.periph.rx = some b → b = s.cfg.term ∨ ¬ s.len < s.cfg.capacity - 2) :
    t.len = s.len ∧ SameCells s.ibuf t.ibuf := by
  cases i with
  | init => exact absurd rfl hinit
  | clr => exact absurd rfl hclr
  | enq b =>
    rw [execEnq_frame b s t h]
    exact ⟨rfl, sameCells_refl _⟩
  | svc => exact exec_svc_keeps_frame_cells s t h hnul (hno rfl)
  | rdbuf ix =>
    have hkept := (execRdbuf_blockKept ix s t h).input
    exact ⟨hkept.len, hkept.ibuf⟩
  | rdreg r =>
    obtain rfl := Host.Outcome.next.inj h
    exact ⟨rfl, sameCells_refl _⟩

/-- Settles O49: `TERM` leaves the content and writes the `NUL`, and the other commands keep `LEN` and the cells. -/
theorem frameIsHeldUntilAppendOrClear : Obligations.FrameIsHeldUntilAppendOrClear := by
  constructor
  · intro s h hrx
    obtain ⟨t, tx, hexec, hnul, -, hlen, -, hframe, -, -⟩ := terminatorCompletesFrame s h hrx
    refine ⟨t, hexec, hframe, frame_length t, fun c hc => isSome_of_mem_frame h (hframe ▸ hc), ?_⟩
    rw [hlen, hnul]
  · intro i s t h hnul hclr hinit hno
    obtain ⟨hlen, hcells⟩ := exec_keeps_frame_cells i s t h hnul hclr hinit hno
    refine ⟨hlen, frame_congr hlen fun n _ => hcells n, ?_⟩
    rw [hlen, hcells, hnul]

/-! ### Received bytes become a frame (R131, R133) -/

/-- Cutting a list to `n` and again after more is appended is cutting once. -/
theorem take_take_append {α : Type} (n : Nat) (xs ys : List α) : (xs.take n ++ ys).take n = (xs ++ ys).take n := by
  rw [List.take_append, List.take_append, List.take_take, List.length_take, Nat.min_self]
  congr 2
  omega

/-- Settles O48, by induction on the bytes received before `TERM`: each one joins the content as far as it fits, and `TERM`
leaves the content as it is. -/
theorem receivedBytesBecomeFrame : Obligations.ReceivedBytesBecomeFrame := by
  intro bs ready rest s h hbs hq
  induction bs generalizing s with
  | nil =>
    have hports := inv_withPorts h rest { txReady := ready, rx := some s.cfg.term }
    obtain ⟨tx, ridx, txlog, -, hexec⟩ := exec_svc_terminator hports rfl
    have hrun := runFor_succ_of_step 0 s _ ((step_request s .svc _ rest rfl hq).trans hexec)
    refine ⟨_, _, hrun, rfl, ?_, ?_, Memory.read_write_same _ _ _, rfl, ?_, List.getLast?_concat, toWord_f _,
      toWord_rx _⟩
    · have hlen : s.frame.length ≤ s.cfg.capacity - 2 := (frame_length s).trans_le h.len_le
      rw [State.respond_frame, frame_completed, State.drained_frame, State.withPorts_frame, List.map_nil,
        List.append_nil, List.take_of_length_le hlen]
    · exact (Nat.min_eq_left h.len_le).symm
    · simp
  | cons p bs ih =>
    obtain ⟨b, r⟩ := p
    have hb : b ≠ s.cfg.term := hbs (b, r) List.mem_cons_self
    have hports := inv_withPorts h (bs.map (fun p => request .svc { txReady := p.2, rx := some p.1 }) ++
      request .svc { txReady := ready, rx := some s.cfg.term } :: rest) { txReady := r, rx := some b }
    obtain ⟨tx, ridx, txlog, hinv, hexec⟩ := exec_svc_received hports b rfl hb
    have hrun := runFor_succ_of_step (bs.length + 1) s _ ((step_request s .svc _ _ rfl hq).trans hexec)
    obtain ⟨t, w, hrun', hrest, hframe, hlen, hnul, hfs, hrxlog, hw⟩ :=
      ih _ (inv_respond (inv_received hinv b hb) _) (fun p hp => by simpa using hbs p (List.mem_cons_of_mem _ hp))
        (by simp)
    refine ⟨t, w, hrun.trans hrun', hrest, ?_, ?_, hnul, hfs, ?_, hw⟩
    · rw [hframe, State.respond_frame, frame_received hinv]
      simp [take_take_append]
    · rw [hlen, State.respond_len, len_received hinv]
      simp
      omega
    · rw [hrxlog]
      simp

end Sys2Proof.Machine

/-! The service operation (42_service.md): what each half of `SVC` does, in the terms of the statements, what `SVC` as a
whole does with both, and the values of its response. -/

namespace Sys2Proof.Machine

/-! ### The effects of the two halves (R103, R120 to R123) -/

/-- A drain step that completes has the effect of R103. -/
theorem drainStep_effect (ready : Bool) (s t : State) (tx : Bool) (h : drainStep ready s = .ok (tx, t)) :
    DrainEffect ready s t tx := by
  obtain ⟨rfl, rfl, hidle⟩ | ⟨rfl, hready, hne, -, b, hb, rfl⟩ := drainStep_ok ready s t tx h
  · have hnot : ¬ (ready = true ∧ t.widx ≠ t.ridx) := by
      rintro ⟨rfl, hne⟩
      exact hidle.elim Bool.noConfusion hne
    refine ⟨rfl, sameCells_refl _, ?_⟩
    rw [if_neg hnot]
    exact ⟨rfl, rfl, rfl⟩
  · refine ⟨rfl, sameCells_refl _, ?_⟩
    rw [if_pos ⟨hready, hne⟩]
    exact ⟨rfl, rfl, b, hb, rfl⟩

/-- A receive step that completes has the effect of R120 to R123 relative to the state before the drain step, and a response
leaves it so: the drain step and the response write none of the fields it speaks of. -/
theorem receiveStep_effect (answer : Option Byte) (s t : State) (ridx : Nat) (txlog : List Byte) (rx fr : Bool)
    (resp : Response) (h : receiveStep answer (s.drained ridx txlog) = .ok (rx, fr, t)) :
    ReceiveEffect answer s (t.respond resp) rx fr := by
  obtain ⟨rfl, rfl, rfl, rfl⟩ | ⟨rfl, rfl, rfl, -, rfl⟩ |
    ⟨b, rfl, (hb : b ≠ s.cfg.term), (hroom : s.len < s.cfg.capacity - 2), rfl, rfl, rfl⟩ |
    ⟨b, rfl, (hb : b ≠ s.cfg.term), (hfull : ¬ s.len < s.cfg.capacity - 2), rfl, rfl, rfl⟩ :=
    receiveStep_ok answer (s.drained ridx txlog) t rx fr h
  · exact ⟨rfl, rfl, rfl, rfl, rfl, sameCells_refl _⟩
  · refine ⟨rfl, rfl, ?_⟩
    rw [State.drained_cfg, if_pos rfl]
    exact ⟨rfl, rfl, rfl, Memory.read_write_same _ _ _, sameCellsBut_write _ _ _⟩
  · refine ⟨rfl, rfl, ?_⟩
    rw [if_neg hb, if_pos hroom]
    exact ⟨rfl, rfl, rfl, Memory.read_write_same _ _ _, sameCellsBut_write _ _ _⟩
  · refine ⟨rfl, rfl, ?_⟩
    rw [if_neg hb, if_neg hfull]
    exact ⟨rfl, rfl, rfl, sameCells_refl _⟩

/-- The receive step signals frame ready exactly when it consumes `TERM` (R142). -/
theorem fr_iff_of_receiveEffect {answer : Option Byte} {s t : State} {rx fr : Bool}
    (h : ReceiveEffect answer s t rx fr) : fr = true ↔ answer = some s.cfg.term := by
  cases answer with
  | none =>
    obtain ⟨-, rfl, -⟩ := h
    simp
  | some b =>
    obtain ⟨-, -, hbyte⟩ := h
    rw [Option.some.injEq]
    split at hbyte
    · next hb => simp [hb, hbyte.1]
    · next hb =>
      have hfr : fr = false := by
        split at hbyte <;> exact hbyte.1
      simp [hb, hfr]

/-- The receive step reports `rx` exactly when the peripheral has a byte. -/
theorem rx_eq_of_receiveEffect {answer : Option Byte} {s t : State} {rx fr : Bool}
    (h : ReceiveEffect answer s t rx fr) : rx = answer.isSome := by
  cases answer <;> exact h.1

/-! ### `SVC` (R140) -/

/-- `SVC` records no fault and leaves the parameters and the outside world's fields as they were. -/
theorem execSvc_keeps_outside (s t : State) (h : execSvc s = .next t) : t.faults = s.faults ∧ OutsideKept s t := by
  rw [execSvc_frame s t h]
  exact ⟨rfl, rfl, rfl, rfl, rfl⟩

/-- Everything an `SVC` that answers does: the effects of its halves on the state it starts from, the response with their
bits, and nothing else. -/
theorem execSvc_effects (s t : State) (h : execSvc s = .next t) :
    ∃ tx rx fr, DrainEffect s.periph.txReady s t tx ∧ ReceiveEffect s.periph.rx s t rx fr ∧
      t.responses = s.responses ++ [svcResponse rx tx fr] ∧ t.faults = s.faults ∧ OutsideKept s t := by
  have hkept := execSvc_keeps_outside s t h
  obtain ⟨tx, s1, rx, fr, s2, hdrain, hreceive, rfl⟩ := execSvc_next s t h
  have hs1 : s1 = s.drained s1.ridx s1.txlog := drainStep_frame _ _ _ _ hdrain
  have hs2 := receiveStep_frame _ _ _ _ _ hreceive
  refine ⟨tx, rx, fr, ?_, ?_, ?_, hkept⟩
  · have heffect := drainStep_effect _ _ _ _ hdrain
    rw [hs2]
    exact heffect
  · rw [hs1] at hreceive
    exact receiveStep_effect _ _ _ _ _ _ _ _ hreceive
  · rw [State.respond_responses, toWord_svc, hs2, hs1, State.drained_responses]

/-- Under the invariant `SVC` answers a next state. -/
theorem execSvc_completes {s : State} (h : Inv s) : ∃ t, execSvc s = .next t := by
  obtain ⟨tx, ridx, txlog, hdrain, hinv⟩ := drainStep_drained h s.periph.txReady
  obtain ⟨rx, fr, t, hreceive⟩ := receiveStep_completes s.periph.rx _ hinv.len_lt
  exact ⟨_, execSvc_of_halves s _ t tx rx fr hdrain hreceive⟩

/-- Settles O21, from the effects of the halves; the word is R82's only one of a command without an operand. -/
theorem svcDrainsAndReceives : Obligations.SvcDrainsAndReceives := by
  refine ⟨rfl, fun c w hop hne hlegal => hne ?_, fun s h => ?_⟩
  · exact eq_commandWord_of_legal_plain c w 3 (.inr (.inl rfl)) hop hlegal
  · obtain ⟨t, hexec⟩ := execSvc_completes h
    obtain ⟨tx, rx, fr, heffects⟩ := execSvc_effects s t hexec
    exact ⟨t, tx, rx, fr, hexec, heffects⟩

/-! ### The response (R142, R144, R145) -/

/-- `F` of `SVC`'s response is the signal frame ready. -/
theorem getLsbD_svcResponse_f (rx tx fr : Bool) : (svcResponse rx tx fr).getLsbD 8 = fr := by
  rw [← toWord_svc, toWord_f]

/-- Settles O26: `F` is the receive step's signal, which `TERM` alone raises. -/
theorem frameReadySignalIsPulse : Obligations.FrameReadySignalIsPulse := by
  intro s t h
  obtain ⟨tx, rx, fr, -, hreceive, hresp, -⟩ := execSvc_effects s t h
  exact ⟨_, hresp, by rw [getLsbD_svcResponse_f, fr_iff_of_receiveEffect hreceive]⟩

/-- Frame ready comes only with a consumed byte, which leaves six of the eight combinations of the three bits (R145). -/
theorem svcResponse_mem_of_fr_imp_rx (rx tx fr : Bool) (h : fr = true → rx = true) :
    svcResponse rx tx fr ∈ [0x0000#16, 0x0200#16, 0x0400#16, 0x0500#16, 0x0600#16, 0x0700#16] := by
  revert rx tx fr
  decide

/-- Settles O28: the consumed `TERM` that raises `F` is a consumed byte. -/
theorem serviceResponseValues : Obligations.ServiceResponseValues := by
  intro s t h
  obtain ⟨tx, rx, fr, -, hreceive, hresp, -⟩ := execSvc_effects s t h
  have himp : fr = true → rx = true := by
    intro hfr
    rw [rx_eq_of_receiveEffect hreceive, (fr_iff_of_receiveEffect hreceive).1 hfr, Option.isSome_some]
  exact ⟨_, svcResponse_mem_of_fr_imp_rx rx tx fr himp, hresp⟩

/-- Settles O27: neither half has anything to do, and the response has no bit set. -/
theorem idleServiceChangesNothing : Obligations.IdleServiceChangesNothing := by
  intro s hidle hrx
  have hdrain := drainStep_idle s.periph.txReady s hidle
  have hreceive : receiveStep s.periph.rx s = .ok (false, false, s) := by
    rw [hrx]
    rfl
  rw [← toWord_dropped]
  exact execSvc_of_halves s s s false false false hdrain hreceive

end Sys2Proof.Machine

/-! The control commands (43_control.md): `INIT` in every state. `RDREG` stands with the register view. -/

namespace Sys2Proof.Machine

/-! ### Nothing pending, no content -/

/-- Equal indices mean occupancy 0, whether or not they are in range (R34, R36). -/
theorem ocount_eq_zero_of_empty {s : State} (h : s.widx = s.ridx) : s.ocount = 0 := by
  rw [State.ocount, h, Nat.add_sub_cancel_left, Nat.mod_self]

/-- On an empty channel no byte is pending. -/
theorem pending_eq_nil_of_empty {s : State} (h : s.widx = s.ridx) : s.pending = [] := by
  rw [← List.length_eq_zero_iff, pending_length, ocount_eq_zero_of_empty h]

/-- With `LEN = 0` there is no content. -/
theorem frame_eq_nil_of_len {s : State} (h : s.len = 0) : s.frame = [] := by
  rw [← List.length_eq_zero_iff, frame_length, h]

/-! ### `INIT` (R160) -/

/-- The block after `INIT`: the registers of both units cleared, and the response 0x0000. -/
def State.initialised (s : State) : State := s.clearIndices.clearFramer.respond {}

@[simp] theorem State.initialised_widx (s : State) : s.initialised.widx = 0 := rfl
@[simp] theorem State.initialised_ridx (s : State) : s.initialised.ridx = 0 := rfl
@[simp] theorem State.initialised_len (s : State) : s.initialised.len = 0 := rfl
@[simp] theorem State.initialised_fstate (s : State) : s.initialised.fstate = .accumulating := rfl
@[simp] theorem State.initialised_faults (s : State) : s.initialised.faults = s.faults := rfl

theorem State.initialised_responses (s : State) : s.initialised.responses = s.responses ++ [0x0000#16] := by
  rw [State.initialised, State.respond_responses, toWord_dropped]
  rfl

/-- `INIT` in every state. -/
theorem exec_init (s : State) : exec .init s = .next s.initialised := rfl

/-- `INIT` neither empties nor fills a cell, calls no peripheral and changes nothing outside the block. -/
theorem initialised_keeps (s : State) :
    SameCells s.obuf s.initialised.obuf ∧ SameCells s.ibuf s.initialised.ibuf ∧
      PeripheralUntouched s s.initialised ∧ OutsideKept s s.initialised :=
  ⟨sameCells_refl _, sameCells_refl _, ⟨rfl, rfl⟩, ⟨rfl, rfl, rfl, rfl⟩⟩

/-- Where the four registers are 0 already, `INIT` adds its response and changes nothing more. -/
theorem blockKept_initialised {s : State} (hw : s.widx = 0) (hr : s.ridx = 0) (hlen : s.len = 0)
    (hfs : s.fstate = .accumulating) : BlockKept s s.initialised := by
  obtain ⟨hobuf, hibuf, hperiph, houtside⟩ := initialised_keeps s
  exact ⟨⟨hw.symm, hr.symm, hobuf⟩, ⟨hlen.symm, hfs.symm, hibuf⟩, hperiph, houtside⟩

/-- Settles O19: `INIT` clears the registers and keeps the rest in every state, so nothing is pending and no content is
left, and a second `INIT` finds the registers cleared. -/
theorem initResetsIndicesAndFramer : Obligations.InitResetsIndicesAndFramer := by
  refine ⟨rfl, fun c w hop hne hlegal => hne ?_, fun s => ?_⟩
  · exact eq_commandWord_of_legal_plain c w 1 (.inl rfl) hop hlegal
  · obtain ⟨hobuf, hibuf, hperiph, houtside⟩ := initialised_keeps s
    exact ⟨_, exec_init s, s.initialised_widx, s.initialised_ridx, s.initialised_len, s.initialised_fstate,
      pending_eq_nil_of_empty rfl, frame_eq_nil_of_len s.initialised_len, hobuf, hibuf, hperiph, houtside,
      s.initialised_faults, s.initialised_responses, _, exec_init _, blockKept_initialised rfl rfl rfl rfl⟩

end Sys2Proof.Machine

/-! The exception (60_exceptions.md): a step on an illegal word, and the records of faults, which no command and no step
clears. -/

namespace Sys2Proof.Machine

/-! ### A step on an illegal word (R181) -/

/-- A step on an illegal word takes the illegal-command outcome, once the request is off the port and the peripheral's
answers for it stand there (R184). -/
theorem step_illegal_command (s : State) (cmd : Word) (a : Answers) (rest : List HostEvent)
    (hq : s.requests = .command cmd a :: rest) (hillegal : ¬ legal s.cfg cmd) :
    step s = .next ((s.withPorts rest a).takeIllegalCommand cmd) := by
  calc step s = issue cmd (s.withPorts rest a) := by
        simp only [step, advance, State.nextEvent, hq, handle, State.withPorts]
    _ = .next ((s.withPorts rest a).takeIllegalCommand cmd) := issue_of_not_legal cmd _ hillegal

/-! ### No record of a fault is cleared (R181) -/

/-- `RDBUF` keeps the records: it adds one at most. -/
theorem execRdbuf_keeps_faults (ix : Byte) (s t : State) (h : execRdbuf ix s = .next t) : s.faults <+: t.faults := by
  obtain ⟨b, -, -, e⟩ | ⟨-, -, e⟩ | ⟨-, e⟩ := execRdbuf_cases ix s <;>
    rw [e] at h <;> obtain rfl := Host.Outcome.next.inj h
  · exact List.prefix_rfl
  · exact List.prefix_append _ _
  · exact List.prefix_append _ _

/-- Every command keeps the records: only `RDBUF` writes them. -/
theorem exec_keeps_faults (i : Instr) (s t : State) (h : exec i s = .next t) : s.faults <+: t.faults := by
  cases i with
  | init =>
    obtain rfl := Host.Outcome.next.inj h
    exact List.prefix_rfl
  | enq b =>
    rw [execEnq_frame b s t h]
  | svc =>
    rw [execSvc_frame s t h]
  | clr =>
    obtain rfl := Host.Outcome.next.inj h
    exact List.prefix_rfl
  | rdbuf ix => exact execRdbuf_keeps_faults ix s t h
  | rdreg r =>
    obtain rfl := Host.Outcome.next.inj h
    exact List.prefix_rfl

/-- Every step keeps the records, a power-on too. -/
theorem step_keeps_faults (s t : State) (h : step s = .next t) : s.faults <+: t.faults := by
  obtain ⟨-, rfl⟩ | ⟨rest, -, rfl⟩ | ⟨cmd, a, rest, i, -, -, hexec⟩ | ⟨cmd, a, rest, e, -, -, rfl⟩ := step_next s t h
  · exact List.prefix_rfl
  · exact List.prefix_rfl
  · exact exec_keeps_faults i (s.withPorts rest a) t hexec
  · exact List.prefix_append _ _

/-- Settles O10: the outcome only records and responds, and every step keeps the records there are. -/
theorem illegalWordTakesIllegalOutcome : Obligations.IllegalWordTakesIllegalOutcome := by
  refine ⟨fun s cmd a rest hq hillegal => ?_, step_keeps_faults⟩
  have hkept := blockKept_takeIllegalCommand (s.withPorts rest a) cmd
  refine ⟨_, step_illegal_command s cmd a rest hq hillegal, hkept, ?_, rfl⟩
  rw [State.takeIllegalCommand_responses, State.withPorts_responses, toWord_err_only]

end Sys2Proof.Machine

/-! Reset (70_reset_and_hazards.md): the state after power-on, and what `INIT` has in common with it. -/

namespace Sys2Proof.Machine

/-! ### The cells at power-on (R200) -/

theorem obuf_read_resetWith (c : Config) (a : Nat) : (State.resetWith c).obuf.read a = none := by
  rw [State.resetWith_obuf, Memory.read_nil]

theorem ibuf_read_resetWith (c : Config) (a : Nat) : (State.resetWith c).ibuf.read a = none := by
  rw [State.resetWith_ibuf, Memory.read_nil]

/-- Settles O12: the reset state field by field, and `INIT` by what it clears and what it keeps: it shares the registers with
power-on reset, but not the cells. -/
theorem powerOnResetState : Obligations.PowerOnResetState := by
  refine ⟨fun c => ?_, State.reset_eq, fun s => ?_⟩
  · exact ⟨State.resetWith_cfg c, State.resetWith_widx c, State.resetWith_ridx c, State.resetWith_len c,
      State.resetWith_fstate c, obuf_read_resetWith c, ibuf_read_resetWith c, State.resetWith_txlog c,
      State.resetWith_rxlog c, State.resetWith_responses c⟩
  · obtain ⟨hobuf, hibuf, -, -⟩ := initialised_keeps s
    exact ⟨s.initialised, exec_init s, s.initialised_widx, s.initialised_ridx, s.initialised_len,
      s.initialised_fstate, hobuf, hibuf⟩

end Sys2Proof.Machine

/-! Commands one by one: the two directions of the encoding, how a step runs a command, and what every command leaves
unchanged, answers and records. -/

namespace Sys2Proof

/-- Settles O1: the word of a well-formed command decodes to it. -/
theorem decodeOfEncodedCommand : Obligations.DecodeOfEncodedCommand := decode_encode

/-- Settles O2: only the word of a well-formed command decodes. -/
theorem encodedWordOfDecodedCommand : Obligations.EncodedWordOfDecodedCommand := by
  intro c w i h
  obtain ⟨hwf, hword⟩ := (decode_eq_ok_iff c w i).1 h
  exact ⟨hword, hwf⟩

/-- The word of a command, taken out of the port's natural number, is that word. -/
theorem ofNat_toNat_encode (i : Instr) : BitVec.ofNat 16 ((encode i).toNat % 2 ^ 16) = encode i := by
  rw [Nat.mod_eq_of_lt (encode i).isLt, BitVec.ofNat_toNat, BitVec.setWidth_eq]

end Sys2Proof

namespace Sys2Proof.Machine

/-- Settles O7: each line is read character by character. -/
theorem assemblerExamples : Obligations.AssemblerExamples := by
  refine ⟨?init, ?enqChar, ?enqHex, ?enqDec, ?svc, ?clr, ?rdbuf, ?rdregName, ?rdregNumber, ?enqsString, ?enqsList,
    ?enqsNothing⟩ <;> decide

/-! ### Steps -/

/-- A step on a command word issues it, once the request is off the port and the peripheral's answers for it stand there. -/
theorem step_command (s : State) (cmd : Word) (a : Answers) (rest : List HostEvent)
    (hq : s.requests = .command cmd a :: rest) : step s = issue cmd (s.withPorts rest a) := by
  simp only [step, advance, State.nextEvent, hq, handle, State.withPorts]

/-- A word that decodes is executed. -/
theorem issue_of_decode (cmd : Word) (s : State) (i : Instr) (h : decode s.cfg cmd = .ok i) : issue cmd s = exec i s := by
  rw [issue, h]

theorem step_decoded (s : State) (cmd : Word) (a : Answers) (rest : List HostEvent) (i : Instr)
    (hq : s.requests = .command cmd a :: rest) (hi : decode s.cfg cmd = .ok i) :
    step s = exec i (s.withPorts rest a) :=
  (step_command s cmd a rest hq).trans (issue_of_decode cmd _ i hi)

theorem step_powerOn (s : State) (rest : List HostEvent) (hq : s.requests = .powerOn :: rest) :
    step s = .next (State.powerOn { s with requests := rest }) := by
  simp only [step, advance, State.nextEvent, hq, handle]

theorem step_idle (s : State) (hq : s.requests = []) : step s = .next s := by
  simp only [step, advance, State.nextEvent, hq]

/-- Settles O8: a word placed by `withFetchWord` is taken off the port again, with the answers that were there. -/
theorem stepRunsTheDecodedCommand : Obligations.StepRunsTheDecodedCommand := by
  refine ⟨step_decoded, fun s i hwf => ?_⟩
  have hdecode : decode s.cfg (BitVec.ofNat 16 ((encode i).toNat % 2 ^ 16)) = .ok i := by
    rw [ofNat_toNat_encode, decode_encode s.cfg i hwf]
  exact step_decoded (s.withFetchWord 16 (encode i).toNat) _ s.periph s.requests i rfl hdecode

/-- Settles O9: with no event on the port there is nothing to react to. -/
theorem stepWithoutRequestChangesNothing : Obligations.StepWithoutRequestChangesNothing := step_idle

/-- Settles O13: the step takes the request off the port and resets the block. -/
theorem powerOnEventResets : Obligations.PowerOnEventResets := by
  intro s rest hq
  exact ⟨_, step_powerOn s rest hq, rfl, rfl, rfl, rfl, Memory.read_nil, Memory.read_nil, rfl, rfl, rfl, rfl, rfl, rfl⟩

/-! ### `RDBUF` by its cell (R127) -/

/-- A cell that exists is read. -/
theorem readCell_of_lt (s : State) (sp : Space) (i : Nat) (h : i < s.cfg.capacity) :
    s.readCell sp i = .ok ((s.cells sp).read i) := if_pos h

/-- `RDBUF` at a cell that holds a byte. -/
theorem exec_rdbuf_byte (s : State) (ix b : Byte) (hix : ix.toNat < s.cfg.capacity)
    (hb : s.ibuf.read ix.toNat = some b) : exec (.rdbuf ix) s = .next (s.respond { data := b }) := by
  have hread : s.readCell .ibuf (bufIndex ix) = .ok (s.ibuf.read ix.toNat) := readCell_of_lt s .ibuf _ hix
  simp only [exec, execRdbuf, hread, hb]

/-- `RDBUF` at a cell without a value. -/
theorem exec_rdbuf_noValue (s : State) (ix : Byte) (hix : ix.toNat < s.cfg.capacity)
    (hnone : s.ibuf.read ix.toNat = none) :
    exec (.rdbuf ix) s = .next ((s.recordFault (.unwrittenRead .ibuf ix.toNat)).respond
      { data := Config.unwrittenByte s.powerOns ix.toNat }) := by
  have hread : s.readCell .ibuf (bufIndex ix) = .ok (s.ibuf.read ix.toNat) := readCell_of_lt s .ibuf _ hix
  simp only [exec, execRdbuf, hread, hnone]
  rfl

/-- `RDBUF` at an index that does not exist. -/
theorem exec_rdbuf_outside (s : State) (ix : Byte) (hix : s.cfg.capacity ≤ ix.toNat) :
    exec (.rdbuf ix) s = .next (s.takeIllegalCommand (encode (.rdbuf ix))) := by
  have hread : s.readCell .ibuf (bufIndex ix) = .error (.noSuchCell .ibuf ix.toNat) := if_neg (Nat.not_lt.2 hix)
  simp only [exec, execRdbuf, hread]

/-- Everything `RDBUF` can do. -/
theorem exec_rdbuf_next (s t : State) (ix : Byte) (h : exec (.rdbuf ix) s = .next t) :
    (∃ b, ix.toNat < s.cfg.capacity ∧ s.ibuf.read ix.toNat = some b ∧ t = s.respond { data := b }) ∨
    (ix.toNat < s.cfg.capacity ∧ s.ibuf.read ix.toNat = none ∧
      t = (s.recordFault (.unwrittenRead .ibuf ix.toNat)).respond
        { data := Config.unwrittenByte s.powerOns ix.toNat }) ∨
    (s.cfg.capacity ≤ ix.toNat ∧ t = s.takeIllegalCommand (encode (.rdbuf ix))) := by
  obtain ⟨b, hix, hb, e⟩ | ⟨hix, hnone, e⟩ | ⟨hix, e⟩ := execRdbuf_cases ix s <;>
    have ht := Host.Outcome.next.inj (h.symm.trans e)
  · exact .inl ⟨b, hix, hb, ht⟩
  · exact .inr (.inl ⟨hix, hnone, ht⟩)
  · exact .inr (.inr ⟨hix, ht⟩)

/-- Settles O34: the cell's byte is the response's `DATA`, and a response changes nothing of the block. -/
theorem rdbufReturnsTheByte : Obligations.RdbufReturnsTheByte := by
  intro s ix b hix hb
  exact ⟨_, exec_rdbuf_byte s ix b hix hb, blockKept_respond s _, rfl, respond_data_responses s b⟩

/-- The upper byte of a response with `DATA` alone is 0. -/
theorem upperByte_setWidth (b : Byte) : (b.setWidth 16).extractLsb' 8 8 = 0#8 := by
  ext j
  simp

/-- Settles O35: the repetition finds the same cell and the same power-on, so the same free byte; the invariant keeps
`IBUF[C-1]` and above without a value. -/
theorem rdbufOfCellWithoutValue : Obligations.RdbufOfCellWithoutValue := by
  refine ⟨fun s ix hix hnone => ?_, fun s h => ?_⟩
  · exact ⟨_, _, _, exec_rdbuf_noValue s ix hix hnone, blockKept_recordFault_respond s _ _, rfl,
      respond_data_responses _ _, upperByte_setWidth _, exec_rdbuf_noValue _ ix hix hnone, respond_data_responses _ _⟩
  · exact Memory.read_eq_none_of_below _ _ _ h.ibuf_below (Nat.le_refl _)

/-! ### What every command leaves unchanged -/

/-- No command changes the parameters or the outside world's fields. -/
theorem exec_keeps_outside (i : Instr) (s t : State) (h : exec i s = .next t) : OutsideKept s t := by
  cases i with
  | init =>
    obtain rfl := Host.Outcome.next.inj h
    exact ⟨rfl, rfl, rfl, rfl⟩
  | enq b =>
    rw [execEnq_frame b s t h]
    exact ⟨rfl, rfl, rfl, rfl⟩
  | svc => exact (execSvc_keeps_outside s t h).2
  | clr =>
    obtain rfl := Host.Outcome.next.inj h
    exact ⟨rfl, rfl, rfl, rfl⟩
  | rdbuf ix => exact (execRdbuf_blockKept ix s t h).outside
  | rdreg r =>
    obtain rfl := Host.Outcome.next.inj h
    exact (blockKept_respond s _).outside

/-- No command but `SVC` calls the peripheral. -/
theorem exec_peripheralUntouched (i : Instr) (s t : State) (hi : i ≠ .svc) (h : exec i s = .next t) :
    PeripheralUntouched s t := by
  cases i with
  | init =>
    obtain rfl := Host.Outcome.next.inj h
    exact ⟨rfl, rfl⟩
  | enq b =>
    rw [execEnq_frame b s t h]
    exact ⟨rfl, rfl⟩
  | svc => exact absurd rfl hi
  | clr =>
    obtain rfl := Host.Outcome.next.inj h
    exact ⟨rfl, rfl⟩
  | rdbuf ix => exact (execRdbuf_blockKept ix s t h).peripheral
  | rdreg r =>
    obtain rfl := Host.Outcome.next.inj h
    exact (blockKept_respond s _).peripheral

/-- Settles O30, command by command; an illegal word's outcome only records and responds. -/
theorem onlyServiceCallsPeripheral : Obligations.OnlyServiceCallsPeripheral := by
  refine ⟨exec_peripheralUntouched, fun cmd s t hillegal h => ?_⟩
  rw [issue_of_not_legal cmd s hillegal] at h
  obtain rfl := Host.Outcome.next.inj h
  exact (blockKept_takeIllegalCommand s cmd).peripheral

/-! ### Written cells stay written (R31, R37) -/

/-- The receive step leaves `IBUF` or writes one byte into it. -/
theorem receiveStep_ibuf (answer : Option Byte) (s t : State) (rx fr : Bool)
    (h : receiveStep answer s = .ok (rx, fr, t)) : t.ibuf = s.ibuf ∨ ∃ b, t.ibuf = s.ibuf.write s.len b := by
  obtain ⟨-, -, -, rfl⟩ | ⟨-, -, -, -, rfl⟩ | ⟨b, -, -, -, -, -, rfl⟩ | ⟨b, -, -, -, -, -, rfl⟩ :=
    receiveStep_ok answer s t rx fr h
  · exact .inl rfl
  · exact .inr ⟨NUL, rfl⟩
  · exact .inr ⟨b, rfl⟩
  · exact .inl rfl

/-- `SVC` leaves `IBUF` or writes one byte into it: its drain step does not touch it. -/
theorem execSvc_ibuf (s t : State) (h : execSvc s = .next t) :
    t.ibuf = s.ibuf ∨ ∃ b, t.ibuf = s.ibuf.write s.len b := by
  obtain ⟨tx, s1, rx, fr, s2, hdrain, hreceive, rfl⟩ := execSvc_next s t h
  have hs1 := drainStep_frame _ _ _ _ hdrain
  have hibuf := receiveStep_ibuf _ _ _ _ _ hreceive
  rw [hs1] at hibuf
  exact hibuf

/-- Settles O39: a command leaves a buffer as it was or writes a byte into it, and a write empties no cell. -/
theorem writtenCellsStayWritten : Obligations.WrittenCellsStayWritten := by
  intro i s t a h
  cases i with
  | init =>
    obtain rfl := Host.Outcome.next.inj h
    exact ⟨id, id⟩
  | enq b =>
    obtain ⟨-, rfl⟩ | ⟨-, -, rfl⟩ := execEnq_next b s t h
    · exact ⟨id, id⟩
    · exact ⟨Memory.isSome_read_write s.obuf s.widx b a, id⟩
  | svc =>
    have hobuf : t.obuf = s.obuf := by rw [execSvc_frame s t h]
    refine ⟨fun ho => hobuf ▸ ho, fun hi => ?_⟩
    obtain hsame | ⟨b, hwrite⟩ := execSvc_ibuf s t h
    · rwa [hsame]
    · rw [hwrite]
      exact Memory.isSome_read_write s.ibuf s.len b a hi
  | clr =>
    obtain rfl := Host.Outcome.next.inj h
    exact ⟨id, id⟩
  | rdbuf ix =>
    obtain ⟨houtput, hinput, -, -⟩ := execRdbuf_blockKept ix s t h
    rw [houtput.obuf, hinput.ibuf]
    exact ⟨id, id⟩
  | rdreg r =>
    obtain rfl := Host.Outcome.next.inj h
    exact ⟨id, id⟩

/-! ### One response, with the command's own fields (R81) -/

/-- The fields of a response that are set are fields of the command. -/
structure Response.BelongsTo (i : Instr) (r : Response) : Prop where
  f : r.f = true → i = .svc ∨ ∃ b, i = .enq b
  tx : r.tx = true → i = .svc
  rx : r.rx = true → i = .svc
  data : r.data ≠ 0 → (∃ ix, i = .rdbuf ix) ∨ ∃ reg, i = .rdreg reg

/-- A response with no field but `ERR` sets no field of a command. -/
theorem belongsTo_noField (i : Instr) (err : Bool) : Response.BelongsTo i { err := err } :=
  ⟨Bool.noConfusion, Bool.noConfusion, Bool.noConfusion, fun h => absurd rfl h⟩

/-- `RDBUF` and `RDREG` answer with `DATA`. -/
theorem belongsTo_data (i : Instr) (b : Byte) (hi : (∃ ix, i = .rdbuf ix) ∨ ∃ reg, i = .rdreg reg) :
    Response.BelongsTo i { data := b } :=
  ⟨Bool.noConfusion, Bool.noConfusion, Bool.noConfusion, fun _ => hi⟩

/-- `ENQ` answers with `F`. -/
theorem belongsTo_enq (b : Byte) : Response.BelongsTo (.enq b) { f := true } :=
  ⟨fun _ => .inr ⟨b, rfl⟩, Bool.noConfusion, Bool.noConfusion, fun h => absurd rfl h⟩

/-- `SVC` answers with `RX`, `TX` and `F`. -/
theorem belongsTo_svc (rx tx f : Bool) : Response.BelongsTo .svc { rx := rx, tx := tx, f := f } :=
  ⟨fun _ => .inl rfl, fun _ => rfl, fun _ => rfl, fun h => absurd rfl h⟩

/-- Every command that answers gives exactly one response, of its own fields; `ERR` only for a term that no word decodes
to, `RDBUF i` with `i ≥ C`. -/
theorem exec_responds (i : Instr) (s t : State) (h : exec i s = .next t) :
    ∃ r : Response, t.responses = s.responses ++ [r.toWord] ∧ r.err = !i.wellFormed s.cfg ∧ r.BelongsTo i := by
  cases i with
  | init =>
    obtain rfl := Host.Outcome.next.inj h
    exact ⟨{}, rfl, rfl, belongsTo_noField _ _⟩
  | enq b =>
    obtain ⟨-, rfl⟩ | ⟨-, -, rfl⟩ := execEnq_next b s t h
    · exact ⟨{}, rfl, rfl, belongsTo_noField _ _⟩
    · exact ⟨{ f := true }, rfl, rfl, belongsTo_enq b⟩
  | svc =>
    obtain ⟨sent, got, tx, rx, fr, -, -, -, -, hresp⟩ := execSvc_logs s t h
    exact ⟨_, hresp, rfl, belongsTo_svc rx tx fr⟩
  | clr =>
    obtain rfl := Host.Outcome.next.inj h
    exact ⟨{}, rfl, rfl, belongsTo_noField _ _⟩
  | rdbuf ix =>
    obtain ⟨b, hix, -, rfl⟩ | ⟨hix, -, rfl⟩ | ⟨hix, rfl⟩ := exec_rdbuf_next s t ix h
    · exact ⟨{ data := b }, rfl, by simp [Instr.wellFormed, hix], belongsTo_data _ _ (.inl ⟨ix, rfl⟩)⟩
    · exact ⟨{ data := Config.unwrittenByte s.powerOns ix.toNat }, rfl, by simp [Instr.wellFormed, hix],
        belongsTo_data _ _ (.inl ⟨ix, rfl⟩)⟩
    · exact ⟨{ err := true }, rfl, by simp [Instr.wellFormed, hix], belongsTo_noField _ _⟩
  | rdreg r =>
    obtain rfl := Host.Outcome.next.inj h
    exact ⟨{ data := s.regView r }, rfl, rfl, belongsTo_data _ _ (.inr ⟨r, rfl⟩)⟩

/-- A well-formed command answers with `ERR` 0. -/
theorem exec_responds_without_err (i : Instr) (s t : State) (hwf : i.wellFormed s.cfg = true)
    (h : exec i s = .next t) :
    ∃ r : Response, t.responses = s.responses ++ [r.toWord] ∧ r.toWord.getLsbD 15 = false ∧ r.BelongsTo i := by
  obtain ⟨r, hresp, herr, hown⟩ := exec_responds i s t h
  exact ⟨r, hresp, by rw [toWord_err, herr, hwf, Bool.not_true], hown⟩

/-- Settles O40: the bits of the response word are the fields of the command's response. -/
theorem responseFieldsBelongToTheirCommands : Obligations.ResponseFieldsBelongToTheirCommands := by
  refine ⟨fun i s t hwf h => ?_, fun cmd s t hillegal h => ?_⟩
  · obtain ⟨r, hresp, herr, hf, htx, hrx, hdata⟩ := exec_responds_without_err i s t hwf h
    refine ⟨r.toWord, hresp, herr, toWord_zero r, ?_, ?_, ?_, ?_⟩
    · rwa [toWord_f]
    · rwa [toWord_tx]
    · rwa [toWord_rx]
    · rwa [toWord_data]
  · rw [issue_of_not_legal cmd s hillegal] at h
    obtain rfl := Host.Outcome.next.inj h
    rw [State.takeIllegalCommand_responses, toWord_err_only]

/-- A well-formed command records no fault but that of `RDBUF` at a cell without a value. -/
theorem exec_faults (i : Instr) (s t : State) (hwf : i.wellFormed s.cfg = true) (h : exec i s = .next t) :
    t.faults = s.faults ∨
      ∃ ix, i = .rdbuf ix ∧ s.ibuf.read ix.toNat = none ∧ t.faults = s.faults ++ [.unwrittenRead .ibuf ix.toNat] := by
  cases i with
  | init =>
    obtain rfl := Host.Outcome.next.inj h
    exact .inl rfl
  | enq b =>
    rw [execEnq_frame b s t h]
    exact .inl rfl
  | svc => exact .inl (execSvc_keeps_outside s t h).1
  | clr =>
    obtain rfl := Host.Outcome.next.inj h
    exact .inl rfl
  | rdbuf ix =>
    have hix : ix.toNat < s.cfg.capacity := of_decide_eq_true hwf
    obtain ⟨b, -, -, rfl⟩ | ⟨-, hnone, rfl⟩ | ⟨hout, -⟩ := exec_rdbuf_next s t ix h
    · exact .inl rfl
    · exact .inr ⟨ix, rfl, hnone, rfl⟩
    · exact absurd hix (Nat.not_lt.2 hout)
  | rdreg r =>
    obtain rfl := Host.Outcome.next.inj h
    exact .inl rfl

/-- Settles O41, from what each command records and from `ERR` in its one response. -/
theorem legalCommandsRaiseNothing : Obligations.LegalCommandsRaiseNothing := by
  intro i s t hwf h
  obtain ⟨r, hresp, herr, -⟩ := exec_responds_without_err i s t hwf h
  exact ⟨exec_faults i s t hwf h, r.toWord, hresp, herr⟩

/-! ### Reads repeat, clears are idempotent (R67) -/

theorem SameCells.trans {m m' m'' : Memory} (h : SameCells m m') (h' : SameCells m' m'') : SameCells m m'' :=
  fun a => (h' a).trans (h a)

theorem BlockKept.trans {s t u : State} (h : BlockKept s t) (h' : BlockKept t u) : BlockKept s u where
  output := ⟨h'.output.widx.trans h.output.widx, h'.output.ridx.trans h.output.ridx, h.output.obuf.trans h'.output.obuf⟩
  input := ⟨h'.input.len.trans h.input.len, h'.input.fstate.trans h.input.fstate, h.input.ibuf.trans h'.input.ibuf⟩
  peripheral := ⟨h'.peripheral.txlog.trans h.peripheral.txlog, h'.peripheral.rxlog.trans h.peripheral.rxlog⟩
  outside := ⟨h'.outside.cfg.trans h.outside.cfg, h'.outside.requests.trans h.outside.requests,
    h'.outside.periph.trans h.outside.periph, h'.outside.powerOns.trans h.outside.powerOns⟩

/-- A response changes no register. -/
@[simp] theorem State.respond_regView (s : State) (resp : Response) (r : Reg) :
    (s.respond resp).regView r = s.regView r := by cases r <;> rfl

/-- `RDBUF` and `RDREG` leave the block as it was. -/
theorem exec_read_blockKept (i : Instr) (s t : State) (hi : (∃ ix, i = .rdbuf ix) ∨ ∃ r, i = .rdreg r)
    (h : exec i s = .next t) : BlockKept s t := by
  obtain ⟨ix, rfl⟩ | ⟨r, rfl⟩ := hi
  · exact execRdbuf_blockKept ix s t h
  · obtain rfl := Host.Outcome.next.inj h
    exact blockKept_respond s _

/-- Repeating `RDBUF` or `RDREG` gives the same response: what the response depends on was not changed. -/
theorem exec_read_repeats (i : Instr) (s t : State) (hi : (∃ ix, i = .rdbuf ix) ∨ ∃ r, i = .rdreg r)
    (h : exec i s = .next t) :
    ∃ u w, exec i t = .next u ∧ t.responses = s.responses ++ [w] ∧ u.responses = t.responses ++ [w] := by
  obtain ⟨ix, rfl⟩ | ⟨r, rfl⟩ := hi
  · obtain ⟨b, hix, hb, rfl⟩ | ⟨hix, hnone, rfl⟩ | ⟨hix, rfl⟩ := exec_rdbuf_next s t ix h
    · exact ⟨_, _, exec_rdbuf_byte _ ix b hix hb, rfl, rfl⟩
    · exact ⟨_, _, exec_rdbuf_noValue _ ix hix hnone, rfl, rfl⟩
    · exact ⟨_, _, exec_rdbuf_outside _ ix hix, rfl, rfl⟩
  · obtain rfl := Host.Outcome.next.inj h
    refine ⟨_, _, exec_rdreg _ r, State.respond_responses _ _, ?_⟩
    rw [State.respond_responses, State.respond_regView]

/-- Settles O38: a read leaves what its response depends on, and a clear leaves what it would clear again. -/
theorem readsRepeatAndClearsAreIdempotent : Obligations.ReadsRepeatAndClearsAreIdempotent := by
  refine ⟨fun i s t hi h => ?_, fun i s t hi h => ?_, fun i s t hi h => ?_⟩
  · obtain ⟨u, w, hu, hw, hw'⟩ := exec_read_repeats i s t hi h
    have hkept := exec_read_blockKept i s t hi h
    exact ⟨hkept, u, w, hu, hw, hw', hkept.trans (exec_read_blockKept i t u hi hu)⟩
  · refine exec_peripheralUntouched i s t ?_ h
    obtain rfl | rfl | ⟨b, rfl⟩ := hi <;> exact Instr.noConfusion
  · obtain rfl | rfl := hi <;> obtain rfl := Host.Outcome.next.inj h
    · exact ⟨_, exec_init _, blockKept_initialised rfl rfl rfl rfl⟩
    · exact ⟨_, exec_clr _, blockKept_clr_again s⟩

end Sys2Proof.Machine

/-! Every step: the invariant is kept, every command is answered under it, the parameters stay and the records grow. -/

namespace Sys2Proof.Machine

/-! ### The invariant at reset and across power-on (R200) -/

section Invariant

variable {s t : State}

/-- The invariant holds where the registers are 0 and no cell holds a value: nothing is pending and there is no content. -/
theorem inv_of_cleared (hcfg : s.cfg.Legal) (hw : s.widx = 0) (hr : s.ridx = 0) (hlen : s.len = 0) (hobuf : s.obuf = [])
    (hibuf : s.ibuf = []) : Inv s where
  cfg_legal := hcfg
  widx_lt := hw ▸ capacity_pos s.cfg
  ridx_lt := hr ▸ capacity_pos s.cfg
  len_le := hlen ▸ Nat.zero_le _
  obuf_wf := by rw [hobuf, Memory.wf_nil]
  obuf_below := by rw [hobuf, Memory.below_nil]
  ibuf_wf := by rw [hibuf, Memory.wf_nil]
  ibuf_below := by rw [hibuf, Memory.below_nil]
  pending_held := by
    intro n hn
    rw [ocount_eq_zero_of_empty (hw.trans hr.symm)] at hn
    exact absurd hn (Nat.not_lt_zero n)
  content_held := by
    intro n hn
    rw [hlen] at hn
    exact absurd hn (Nat.not_lt_zero n)

theorem inv_resetWith {c : Config} (hc : c.Legal) : Inv (State.resetWith c) := inv_of_cleared hc rfl rfl rfl rfl rfl

theorem inv_powerOn (h : Inv s) : Inv s.powerOn := inv_of_cleared h.cfg_legal rfl rfl rfl rfl rfl

/-! ### Every command keeps the invariant -/

/-- With both indices cleared nothing is pending. -/
theorem inv_clearIndices (h : Inv s) : Inv s.clearIndices where
  cfg_legal := h.cfg_legal
  widx_lt := capacity_pos s.cfg
  ridx_lt := capacity_pos s.cfg
  len_le := h.len_le
  obuf_wf := h.obuf_wf
  obuf_below := h.obuf_below
  ibuf_wf := h.ibuf_wf
  ibuf_below := h.ibuf_below
  pending_held := by
    intro n hn
    rw [ocount_eq_zero_of_empty (s := s.clearIndices) rfl] at hn
    exact absurd hn (Nat.not_lt_zero n)
  content_held := h.content_held

theorem inv_initialised (h : Inv s) : Inv s.initialised := inv_respond (inv_clearFramer (inv_clearIndices h)) _

/-- The invariant does not speak of the recorded faults. -/
theorem inv_recordFault (h : Inv s) (f : Fault) : Inv (s.recordFault f) :=
  ⟨h.cfg_legal, h.widx_lt, h.ridx_lt, h.len_le, h.obuf_wf, h.obuf_below, h.ibuf_wf, h.ibuf_below, h.pending_held,
    h.content_held⟩

theorem inv_takeIllegalCommand (h : Inv s) (cmd : Word) : Inv (s.takeIllegalCommand cmd) :=
  inv_respond (inv_recordFault h _) _

theorem inv_of_drainStep (h : Inv s) {ready tx : Bool} (hdrain : drainStep ready s = .ok (tx, t)) : Inv t := by
  obtain ⟨-, rfl, -⟩ | ⟨-, -, hne, -, b, -, rfl⟩ := drainStep_ok ready s t tx hdrain
  · exact h
  · exact inv_drained h hne _

theorem inv_of_receiveStep (h : Inv s) {answer : Option Byte} {rx fr : Bool}
    (hreceive : receiveStep answer s = .ok (rx, fr, t)) : Inv t := by
  obtain ⟨-, -, -, rfl⟩ | ⟨-, -, -, -, rfl⟩ | ⟨b, -, hb, hroom, -, -, rfl⟩ | ⟨b, -, -, -, -, -, rfl⟩ :=
    receiveStep_ok answer s t rx fr hreceive
  · exact h
  · exact inv_completed h
  · exact inv_appended h b hb hroom
  · exact inv_periphRead h b

theorem inv_execSvc (h : Inv s) (hexec : execSvc s = .next t) : Inv t := by
  obtain ⟨tx, s1, rx, fr, s2, hdrain, hreceive, rfl⟩ := execSvc_next s t hexec
  exact inv_respond (inv_of_receiveStep (inv_of_drainStep h hdrain) hreceive) _

theorem inv_exec (h : Inv s) (i : Instr) (hexec : exec i s = .next t) : Inv t := by
  cases i with
  | init =>
    obtain rfl := Host.Outcome.next.inj hexec
    exact inv_initialised h
  | enq b =>
    obtain ⟨-, rfl⟩ | ⟨hroom, -, rfl⟩ := execEnq_next b s t hexec
    · exact inv_respond h _
    · exact inv_respond (inv_enqueued h b hroom) _
  | svc => exact inv_execSvc h hexec
  | clr =>
    obtain rfl := Host.Outcome.next.inj hexec
    exact inv_respond (inv_clearFramer h) _
  | rdbuf ix =>
    obtain ⟨b, -, -, rfl⟩ | ⟨-, -, rfl⟩ | ⟨-, rfl⟩ := exec_rdbuf_next s t ix hexec
    · exact inv_respond h _
    · exact inv_respond (inv_recordFault h _) _
    · exact inv_takeIllegalCommand h _
  | rdreg r =>
    obtain rfl := Host.Outcome.next.inj hexec
    exact inv_respond h _

/-! ### Every command is answered under the invariant -/

theorem exec_enq_completes (h : Inv s) (b : Byte) : ∃ t, exec (.enq b) s = .next t := by
  cases hfull : s.ofull with
  | true => exact ⟨_, exec_enq_full b s hfull⟩
  | false => exact ⟨_, exec_enq_room b s hfull h.widx_lt⟩

theorem exec_completes (h : Inv s) (i : Instr) : ∃ t, exec i s = .next t := by
  cases i with
  | init => exact ⟨_, exec_init s⟩
  | enq b => exact exec_enq_completes h b
  | svc => exact execSvc_completes h
  | clr => exact ⟨_, exec_clr s⟩
  | rdbuf ix => obtain ⟨b, -, -, e⟩ | ⟨-, -, e⟩ | ⟨-, e⟩ := execRdbuf_cases ix s <;> exact ⟨_, e⟩
  | rdreg r => exact ⟨_, exec_rdreg s r⟩

/-- A legal command word is answered with `ERR` 0. -/
theorem step_answers_legal (h : Inv s) (cmd : Word) (a : Answers) (rest : List HostEvent)
    (hq : s.requests = .command cmd a :: rest) (hlegal : legal s.cfg cmd) :
    ∃ t w, step s = .next t ∧ t.responses = s.responses ++ [w] ∧ t.requests = rest ∧ w.getLsbD 15 = false := by
  obtain ⟨i, hi⟩ := (decodes_iff_legal s.cfg cmd).2 hlegal
  obtain ⟨t, hexec⟩ := exec_completes (inv_withPorts h rest a) i
  have hwf := ((decode_eq_ok_iff s.cfg cmd i).1 hi).1
  obtain ⟨r, hresp, herr, -⟩ := exec_responds_without_err i (s.withPorts rest a) t hwf hexec
  exact ⟨t, r.toWord, (step_decoded s cmd a rest i hq hi).trans hexec, hresp,
    (exec_keeps_outside i _ t hexec).requests, herr⟩

/-- An illegal command word is answered with `ERR`, in every state. -/
theorem step_answers_illegal (s : State) (cmd : Word) (a : Answers) (rest : List HostEvent)
    (hq : s.requests = .command cmd a :: rest) (hillegal : ¬ legal s.cfg cmd) :
    ∃ t w, step s = .next t ∧ t.responses = s.responses ++ [w] ∧ t.requests = rest ∧ w.getLsbD 15 = true :=
  ⟨_, _, step_illegal_command s cmd a rest hq hillegal, State.takeIllegalCommand_responses _ _, rfl, toWord_err _⟩

theorem step_answers_command (h : Inv s) (cmd : Word) (a : Answers) (rest : List HostEvent)
    (hq : s.requests = .command cmd a :: rest) :
    ∃ t w, step s = .next t ∧ t.responses = s.responses ++ [w] ∧ t.requests = rest ∧
      (w.getLsbD 15 = true ↔ ¬ legal s.cfg cmd) := by
  by_cases hlegal : legal s.cfg cmd
  · obtain ⟨t, w, hstep, hresp, hrest, herr⟩ := step_answers_legal h cmd a rest hq hlegal
    exact ⟨t, w, hstep, hresp, hrest, iff_of_false (by rw [herr]; exact Bool.false_ne_true) (not_not_intro hlegal)⟩
  · obtain ⟨t, w, hstep, hresp, hrest, herr⟩ := step_answers_illegal s cmd a rest hq hlegal
    exact ⟨t, w, hstep, hresp, hrest, iff_of_true herr hlegal⟩

theorem step_completes (h : Inv s) : ∃ t, step s = .next t := by
  cases hq : s.requests with
  | nil => exact ⟨_, step_idle s hq⟩
  | cons e rest =>
    cases e with
    | powerOn => exact ⟨_, step_powerOn s rest hq⟩
    | command cmd a =>
      obtain ⟨t, w, hstep, -⟩ := step_answers_command h cmd a rest hq
      exact ⟨t, hstep⟩

end Invariant

/-- Settles O14: the reset state has its registers at 0 and no cell with a value. -/
theorem resetSatisfiesInvariant : Obligations.ResetSatisfiesInvariant :=
  ⟨fun _ hc => inv_resetWith hc, inv_resetWith (by decide)⟩

/-- Settles O15, by what a step can do: nothing, a power-on, a command, or the illegal-command outcome. -/
theorem stepKeepsInvariant : Obligations.StepKeepsInvariant := by
  intro s t h hstep
  obtain ⟨-, rfl⟩ | ⟨rest, -, rfl⟩ | ⟨cmd, a, rest, i, -, -, hexec⟩ | ⟨cmd, a, rest, e, -, -, rfl⟩ := step_next s t hstep
  · exact h
  · exact inv_powerOn (inv_withPorts h rest s.periph)
  · exact inv_exec (inv_withPorts h rest a) i hexec
  · exact inv_takeIllegalCommand (inv_withPorts h rest a) cmd

/-- Settles O16: under the invariant every command completes, and `ERR` is 1 in the illegal-command outcome alone. -/
theorem everyCommandIsAnswered : Obligations.EveryCommandIsAnswered :=
  ⟨fun _ h => step_completes h, fun _ cmd a rest h hq => step_answers_command h cmd a rest hq⟩

/-- Every command keeps the earlier responses: it adds one. -/
theorem exec_keeps_responses (i : Instr) (s t : State) (h : exec i s = .next t) : s.responses <+: t.responses := by
  obtain ⟨r, hresp, -⟩ := exec_responds i s t h
  rw [hresp]
  exact List.prefix_append _ _

/-- A step changes no parameter and keeps the earlier responses. -/
theorem step_keeps_cfg_and_responses (s t : State) (h : step s = .next t) :
    t.cfg = s.cfg ∧ s.responses <+: t.responses := by
  obtain ⟨-, rfl⟩ | ⟨rest, -, rfl⟩ | ⟨cmd, a, rest, i, -, -, hexec⟩ | ⟨cmd, a, rest, e, -, -, rfl⟩ := step_next s t h
  · exact ⟨rfl, List.prefix_rfl⟩
  · exact ⟨rfl, List.prefix_rfl⟩
  · exact ⟨(exec_keeps_outside i _ t hexec).cfg, exec_keeps_responses i (s.withPorts rest a) t hexec⟩
  · exact ⟨rfl, List.prefix_append _ _⟩

/-- Settles O17: a command adds one response and at most one fault; the other steps clear neither record. -/
theorem stepKeepsParametersAndRecords : Obligations.StepKeepsParametersAndRecords := by
  intro s t h
  obtain ⟨hcfg, hresp⟩ := step_keeps_cfg_and_responses s t h
  exact ⟨hcfg, hresp, step_keeps_faults s t h⟩

end Sys2Proof.Machine

/-! The records and `FSTATE` are not read, nor is what `OBUF` holds (10_state.md sections 3 and 4, 20_memory.md section 1);
and so an illegal word leaves no trace in what follows it (60_exceptions.md section 4). -/

namespace Sys2Proof.Machine

/-! ### What the halves of `SVC` read -/

/-- The bit `tx` and `RIDX` after the drain step are fixed by the indices (R103). -/
theorem drainStep_bits (ready : Bool) (s t : State) (tx : Bool) (h : drainStep ready s = .ok (tx, t)) :
    tx = (ready && !s.oempty) ∧ t.ridx = if ready && !s.oempty then nextIndex s.cfg s.ridx else s.ridx := by
  obtain ⟨rfl, rfl, hidle⟩ | ⟨rfl, rfl, hne, -, b, -, rfl⟩ := drainStep_ok ready s t tx h
  · have hoff : (ready && !t.oempty) = false := by
      obtain rfl | hempty := hidle
      · rfl
      · rw [(oempty_iff t).2 hempty, Bool.not_true, Bool.and_false]
    rw [hoff]
    exact ⟨rfl, rfl⟩
  · have hon : (true && !s.oempty) = true := by simp [State.oempty, hne]
    rw [hon]
    exact ⟨rfl, rfl⟩

/-- The drain step reads the parameters and the Output Channel only: on another state with the same it sends the same byte
and moves `RIDX` to the same place. -/
theorem drainStep_congr (ready : Bool) (s s' t : State) (tx : Bool) (hcfg : s'.cfg = s.cfg) (hw : s'.widx = s.widx)
    (hr : s'.ridx = s.ridx) (hobuf : s'.obuf = s.obuf) (h : drainStep ready s = .ok (tx, t)) :
    ∃ sent, t = s.drained t.ridx (s.txlog ++ sent) ∧
      drainStep ready s' = .ok (tx, s'.drained t.ridx (s'.txlog ++ sent)) := by
  obtain ⟨rfl, rfl, hidle⟩ | ⟨rfl, rfl, hne, hlt, b, hb, rfl⟩ := drainStep_ok ready s t tx h
  · refine ⟨[], by rw [List.append_nil]; rfl, ?_⟩
    rw [drainStep_idle ready s' (by rwa [hw, hr]), List.append_nil, ← hr]
    rfl
  · have hnext : nextIndex s'.cfg s'.ridx = nextIndex s.cfg s.ridx := by rw [hcfg, hr]
    refine ⟨[b], rfl, ?_⟩
    rw [drainStep_transmits s' b (by rwa [hw, hr]) (by rwa [hr, hcfg]) (by rwa [hobuf, hr]), hnext]
    rfl

/-- The state after a receive step that put the content into `ibuf` and `len`, signalled `fr` and got `got`: of `FSTATE` and
`RXLOG` it says only what is added. -/
def State.receiving (s : State) (ibuf : Memory) (len : Nat) (fr : Bool) (got : List Byte) : State :=
  { s with ibuf := ibuf, len := len, fstate := if fr then .frameReady else s.fstate, rxlog := s.rxlog ++ got }

/-- The receive step reads the parameters, `LEN` and `IBUF` only: on another state with the same it does the same. -/
theorem receiveStep_congr (answer : Option Byte) (s s' t : State) (rx fr : Bool) (hcfg : s'.cfg = s.cfg)
    (hlen : s'.len = s.len) (hibuf : s'.ibuf = s.ibuf) (h : receiveStep answer s = .ok (rx, fr, t)) :
    ∃ got, t = s.receiving t.ibuf t.len fr got ∧
      receiveStep answer s' = .ok (rx, fr, s'.receiving t.ibuf t.len fr got) := by
  obtain ⟨rfl, rfl, rfl, rfl⟩ | ⟨rfl, rfl, rfl, hlt, rfl⟩ | ⟨b, rfl, hb, hroom, rfl, rfl, rfl⟩ |
    ⟨b, rfl, hb, hfull, rfl, rfl, rfl⟩ := receiveStep_ok answer s t rx fr h
  · refine ⟨[], by rw [State.receiving, List.append_nil]; rfl, ?_⟩
    rw [State.receiving, List.append_nil, ← hlen, ← hibuf]
    rfl
  · rw [← hcfg, ← hlen] at hlt
    refine ⟨[s.cfg.term], rfl, ?_⟩
    rw [← hcfg, receiveStep_terminator s' hlt, hibuf, hlen]
    rfl
  · rw [← hcfg, ← hlen] at hroom
    refine ⟨[b], rfl, ?_⟩
    rw [receiveStep_room s' b (by rwa [hcfg]) hroom, hibuf, hlen]
    rfl
  · rw [← hcfg, ← hlen] at hfull
    refine ⟨[b], rfl, ?_⟩
    rw [receiveStep_noRoom s' b (by rwa [hcfg]) hfull, State.receiving, ← hlen, ← hibuf]
    rfl

/-! ### The fields that no command reads -/

/-- The four records: the peripheral's logs (R42), the responses (R43) and the recorded faults (R181). -/
structure Records where
  txlog : List Byte
  rxlog : List Byte
  responses : List Word
  faults : List Fault

/-- Each record with what a command adds to it. -/
def Records.append (r d : Records) : Records where
  txlog := r.txlog ++ d.txlog
  rxlog := r.rxlog ++ d.rxlog
  responses := r.responses ++ d.responses
  faults := r.faults ++ d.faults

/-- One response is added. -/
def Records.ofResponse (resp : Response) : Records where
  txlog := []
  rxlog := []
  responses := [resp.toWord]
  faults := []

/-- One recorded fault and one response are added. -/
def Records.ofFault (f : Fault) (resp : Response) : Records where
  txlog := []
  rxlog := []
  responses := [resp.toWord]
  faults := [f]

/-- The records of a state. -/
def State.records (s : State) : Records where
  txlog := s.txlog
  rxlog := s.rxlog
  responses := s.responses
  faults := s.faults

/-- The state with another `FSTATE` and other records. -/
def State.withUnread (s : State) (f : FState) (r : Records) : State :=
  { s with fstate := f, txlog := r.txlog, rxlog := r.rxlog, responses := r.responses, faults := r.faults }

/-- From `s` the command `i` answers `t`, and with other records in place of `s`'s it answers the same up to `FSTATE`, with
the same additions `d` to the records; `FSTATE` is set to the same value or kept. -/
def AnswersAlike (i : Instr) (s t : State) (f f' : FState) (r d : Records) : Prop :=
  t.records = s.records.append d ∧ (f' = t.fstate ∨ (t.fstate = s.fstate ∧ f' = f)) ∧
    exec i (s.withUnread f r) = .next (t.withUnread f' (r.append d))

theorem records_respond (s : State) (resp : Response) :
    (s.respond resp).records = s.records.append (.ofResponse resp) := by
  simp [State.records, Records.append, Records.ofResponse]

theorem records_recordFault_respond (s : State) (flt : Fault) (resp : Response) :
    ((s.recordFault flt).respond resp).records = s.records.append (.ofFault flt resp) := by
  simp [State.records, Records.append, Records.ofFault]

/-- Responding commutes with replacing the unread fields. -/
theorem withUnread_respond (s : State) (f : FState) (r : Records) (resp : Response) :
    (s.withUnread f r).respond resp = (s.respond resp).withUnread f (r.append (.ofResponse resp)) := by
  simp [State.withUnread, State.respond, Records.append, Records.ofResponse]

/-- Recording a fault and responding commutes with replacing the unread fields. -/
theorem withUnread_recordFault_respond (s : State) (f : FState) (r : Records) (flt : Fault) (resp : Response) :
    ((s.withUnread f r).recordFault flt).respond resp =
      ((s.recordFault flt).respond resp).withUnread f (r.append (.ofFault flt resp)) := by
  simp [State.withUnread, State.respond, State.recordFault, Records.append, Records.ofFault]

/-- Of the register view only `STATUS` shows an unread field. -/
theorem regView_withUnread (s : State) (f : FState) (r : Records) (reg : Reg) (h : reg = .status → f = s.fstate) :
    (s.withUnread f r).regView reg = s.regView reg := by
  cases reg with
  | status =>
    obtain rfl := h rfl
    rfl
  | _ => rfl

theorem exec_enq_alike (b : Byte) (s t : State) (f : FState) (r : Records) (h : execEnq b s = .next t) :
    ∃ f' d, AnswersAlike (.enq b) s t f f' r d := by
  obtain ⟨hfull, rfl⟩ | ⟨hroom, hw, rfl⟩ := execEnq_next b s t h
  · exact ⟨f, _, records_respond s _, .inr ⟨rfl, rfl⟩,
      (exec_enq_full b (s.withUnread f r) hfull).trans (congrArg _ (withUnread_respond s f r _))⟩
  · exact ⟨f, _, records_respond (s.enqueued b) _, .inr ⟨rfl, rfl⟩,
      (exec_enq_room b (s.withUnread f r) hroom hw).trans (congrArg _ (withUnread_respond (s.enqueued b) f r _))⟩

theorem exec_svc_alike (s t : State) (f : FState) (r : Records) (h : execSvc s = .next t) :
    ∃ f' d, AnswersAlike .svc s t f f' r d := by
  obtain ⟨tx, s1, rx, fr, s2, hdrain, hreceive, rfl⟩ := execSvc_next s t h
  obtain ⟨sent, hs1, hdrain'⟩ := drainStep_congr _ s (s.withUnread f r) s1 tx rfl rfl rfl rfl hdrain
  obtain ⟨got, hs2, hreceive'⟩ := receiveStep_congr _ s1 ((s.withUnread f r).drained s1.ridx (r.txlog ++ sent)) s2 rx fr
    (by rw [hs1]; rfl) (by rw [hs1]; rfl) (by rw [hs1]; rfl) hreceive
  have hanswer := execSvc_of_halves (s.withUnread f r) _ _ tx rx fr hdrain' hreceive'
  rw [hs2, hs1]
  refine ⟨if fr then .frameReady else f, ⟨sent, got, [Response.toWord { rx := rx, tx := tx, f := fr }], []⟩, ?_, ?_, ?_⟩
  · simp [State.records, Records.append, State.receiving, State.drained]
  · cases fr
    · exact .inr ⟨rfl, rfl⟩
    · exact .inl rfl
  · refine hanswer.trans ?_
    simp [State.withUnread, Records.append, State.receiving, State.drained, State.respond]

theorem exec_rdbuf_alike (ix : Byte) (s t : State) (f : FState) (r : Records) (h : exec (.rdbuf ix) s = .next t) :
    ∃ f' d, AnswersAlike (.rdbuf ix) s t f f' r d := by
  obtain ⟨b, hix, hb, rfl⟩ | ⟨hix, hnone, rfl⟩ | ⟨hix, rfl⟩ := exec_rdbuf_next s t ix h
  · exact ⟨f, _, records_respond s _, .inr ⟨rfl, rfl⟩,
      (exec_rdbuf_byte (s.withUnread f r) ix b hix hb).trans (congrArg _ (withUnread_respond s f r _))⟩
  · exact ⟨f, _, records_recordFault_respond s _ _, .inr ⟨rfl, rfl⟩,
      (exec_rdbuf_noValue (s.withUnread f r) ix hix hnone).trans
        (congrArg _ (withUnread_recordFault_respond s f r _ _))⟩
  · exact ⟨f, _, records_recordFault_respond s _ _, .inr ⟨rfl, rfl⟩,
      (exec_rdbuf_outside (s.withUnread f r) ix hix).trans (congrArg _ (withUnread_recordFault_respond s f r _ _))⟩

theorem exec_rdreg_alike (reg : Reg) (s : State) (f : FState) (r : Records) (hf : reg = .status → f = s.fstate) :
    ∃ f' d, AnswersAlike (.rdreg reg) s (s.respond { data := s.regView reg }) f f' r d := by
  refine ⟨f, _, records_respond s _, .inr ⟨rfl, rfl⟩, ?_⟩
  rw [exec_rdreg, regView_withUnread s f r reg hf, withUnread_respond]

/-- No command reads the records, and none but `RDREG STATUS` reads `FSTATE`. -/
theorem exec_alike (i : Instr) (s t : State) (f : FState) (r : Records) (hf : i = .rdreg .status → f = s.fstate)
    (h : exec i s = .next t) : ∃ f' d, AnswersAlike i s t f f' r d := by
  cases i with
  | init =>
    obtain rfl := Host.Outcome.next.inj h
    exact ⟨.accumulating, _, records_respond s.clearIndices.clearFramer _, .inl rfl,
      congrArg _ (withUnread_respond s.clearIndices.clearFramer .accumulating r _)⟩
  | enq b => exact exec_enq_alike b s t f r h
  | svc => exact exec_svc_alike s t f r h
  | clr =>
    obtain rfl := Host.Outcome.next.inj h
    exact ⟨.accumulating, _, records_respond s.clearFramer _, .inl rfl,
      congrArg _ (withUnread_respond s.clearFramer .accumulating r _)⟩
  | rdbuf ix => exact exec_rdbuf_alike ix s t f r h
  | rdreg reg =>
    obtain rfl := Host.Outcome.next.inj h
    exact exec_rdreg_alike reg s f r fun hreg => hf (congrArg _ hreg)

/-- Settles O42: with `s`'s own records the additions give `t`'s own. -/
theorem frameStateIsNotRead : Obligations.FrameStateIsNotRead := by
  intro i s t f hi h
  obtain ⟨f', d, hrec, hf', hexec⟩ := exec_alike i s t f s.records (fun heq => absurd heq hi) h
  rw [← hrec] at hexec
  exact ⟨t.withUnread f' t.records, hexec, rfl, hf'⟩

/-- No command reads the records: with others it answers the same and adds the same. -/
theorem exec_withRecords (i : Instr) (s t : State) (r : Records) (h : exec i s = .next t) :
    ∃ d, t.records = s.records.append d ∧
      exec i (s.withUnread s.fstate r) = .next (t.withUnread t.fstate (r.append d)) := by
  obtain ⟨f', d, hrec, hf', hexec⟩ := exec_alike i s t s.fstate r (fun _ => rfl) h
  obtain rfl : f' = t.fstate := hf'.elim id fun hkept => hkept.2.trans hkept.1.symm
  exact ⟨d, hrec, hexec⟩

/-- Settles O43: the additions to the four records are the same whatever the records are. -/
theorem logsAreNotRead : Obligations.LogsAreNotRead := by
  intro i s t tx rx rs fs h
  obtain ⟨⟨tx', rx', rs', fs'⟩, hrec, hexec⟩ := exec_withRecords i s t ⟨tx, rx, rs, fs⟩ h
  obtain ⟨htx, hrx, hrs, hfs⟩ := Records.mk.inj hrec
  exact ⟨tx', rx', rs', fs', htx, hrx, hrs, hfs, hexec⟩

/-! ### What `OBUF` holds is not read (R60) -/

/-- Two drain steps from states that differ in `OBUF` alone end in states that differ in `OBUF` and `TXLOG` alone. -/
theorem drainStep_otherObuf (ready : Bool) (s t u : State) (m : Memory) (tx tx' : Bool)
    (h : drainStep ready s = .ok (tx, t)) (h' : drainStep ready { s with obuf := m } = .ok (tx', u)) :
    tx' = tx ∧ u = { t with obuf := m, txlog := u.txlog } := by
  obtain ⟨htx, hridx⟩ := drainStep_bits _ _ _ _ h
  obtain ⟨htx', hridx'⟩ := drainStep_bits _ _ _ _ h'
  refine ⟨htx'.trans htx.symm, ?_⟩
  have hsame : u.ridx = t.ridx := hridx'.trans hridx.symm
  rw [drainStep_frame _ _ _ _ h, drainStep_frame _ _ _ _ h', hsame]

/-- `SVC` from two states that differ in `OBUF` alone gives the same response. -/
theorem execSvc_otherObuf (s t u : State) (m : Memory) (h : execSvc s = .next t)
    (h' : execSvc { s with obuf := m } = .next u) :
    u.responses = t.responses ∧ u = { t with obuf := u.obuf, txlog := u.txlog } := by
  obtain ⟨tx, s1, rx, fr, s2, hdrain, hreceive, rfl⟩ := execSvc_next s t h
  obtain ⟨tx', s1', rx', fr', s2', hdrain', hreceive', rfl⟩ := execSvc_next _ u h'
  obtain ⟨rfl, hs1'⟩ := drainStep_otherObuf _ _ _ _ _ _ _ hdrain hdrain'
  obtain ⟨got, hs2, hagain⟩ := receiveStep_congr _ s1 s1' s2 rx fr (by rw [hs1']) (by rw [hs1']) (by rw [hs1']) hreceive
  rw [hagain] at hreceive'
  cases hreceive'
  rw [hs2, hs1']
  exact ⟨rfl, rfl⟩

/-- Settles O44: `ENQ` writes `OBUF` without reading it, and what `SVC` reads from it goes to the peripheral alone. -/
theorem outputBufferIsNotReadable : Obligations.OutputBufferIsNotReadable := by
  intro i s t u m h h'
  cases i with
  | init =>
    obtain rfl := Host.Outcome.next.inj h
    obtain rfl := Host.Outcome.next.inj h'
    exact ⟨rfl, rfl⟩
  | enq b =>
    obtain ⟨hfull, rfl⟩ | ⟨hroom, -, rfl⟩ := execEnq_next b s t h <;>
      obtain ⟨hfull', rfl⟩ | ⟨hroom', -, rfl⟩ := execEnq_next b _ u h'
    · exact ⟨rfl, rfl⟩
    · exact absurd (hroom'.symm.trans hfull) Bool.false_ne_true
    · exact absurd (hroom.symm.trans hfull') Bool.false_ne_true
    · exact ⟨rfl, rfl⟩
  | svc => exact execSvc_otherObuf s t u m h h'
  | clr =>
    obtain rfl := Host.Outcome.next.inj h
    obtain rfl := Host.Outcome.next.inj h'
    exact ⟨rfl, rfl⟩
  | rdbuf ix =>
    obtain ⟨b, hix, hb, rfl⟩ | ⟨hix, hnone, rfl⟩ | ⟨hix, rfl⟩ := exec_rdbuf_next s t ix h
    · obtain rfl := Host.Outcome.next.inj ((exec_rdbuf_byte { s with obuf := m } ix b hix hb).symm.trans h')
      exact ⟨rfl, rfl⟩
    · obtain rfl := Host.Outcome.next.inj ((exec_rdbuf_noValue { s with obuf := m } ix hix hnone).symm.trans h')
      exact ⟨rfl, rfl⟩
    · obtain rfl := Host.Outcome.next.inj ((exec_rdbuf_outside { s with obuf := m } ix hix).symm.trans h')
      exact ⟨rfl, rfl⟩
  | rdreg r =>
    have hview : State.regView { s with obuf := m } r = s.regView r := by cases r <;> rfl
    rw [exec_rdreg, hview] at h'
    obtain rfl := Host.Outcome.next.inj h
    obtain rfl := Host.Outcome.next.inj h'
    exact ⟨rfl, rfl⟩

/-! ### An illegal word leaves no trace (R186) -/

/-- The state with other records of responses and faults and other last answers of the peripheral. -/
def State.withTrace (s : State) (rs : List Word) (fs : List Fault) (a : Answers) : State :=
  { s with responses := rs, faults := fs, periph := a }

/-- No command reads the records of responses and faults. -/
theorem exec_withTrace (i : Instr) (s t : State) (rs : List Word) (fs : List Fault) (h : exec i s = .next t) :
    ∃ rs' fs', t.responses = s.responses ++ rs' ∧
      exec i (s.withTrace rs fs s.periph) = .next (t.withTrace (rs ++ rs') (fs ++ fs') t.periph) := by
  obtain ⟨tx', rx', rs', fs', htx, hrx, hrs, -, hexec⟩ := logsAreNotRead i s t s.txlog s.rxlog rs fs h
  rw [← htx, ← hrx] at hexec
  exact ⟨rs', fs', hrs, hexec⟩

/-- No step reads the records or the peripheral's last answers: a command comes with its own. -/
theorem step_withTrace (s t : State) (rs : List Word) (fs : List Fault) (a : Answers) (h : step s = .next t) :
    ∃ rs' fs' a', t.responses = s.responses ++ rs' ∧
      step (s.withTrace rs fs a) = .next (t.withTrace (rs ++ rs') fs' a') := by
  obtain ⟨hq, rfl⟩ | ⟨rest, hq, rfl⟩ | ⟨cmd, b, rest, i, hq, hi, hexec⟩ | ⟨cmd, b, rest, e, hq, he, rfl⟩ := step_next s t h
  · refine ⟨[], fs, a, (List.append_nil _).symm, ?_⟩
    rw [List.append_nil]
    exact step_idle (t.withTrace rs fs a) hq
  · refine ⟨[], fs, a, (List.append_nil _).symm, ?_⟩
    rw [List.append_nil]
    exact step_powerOn (s.withTrace rs fs a) rest hq
  · obtain ⟨rs', fs', hrs, hexec'⟩ := exec_withTrace i (s.withPorts rest b) t rs fs hexec
    exact ⟨rs', fs ++ fs', t.periph, hrs, (step_decoded (s.withTrace rs fs a) cmd b rest i hq hi).trans hexec'⟩
  · exact ⟨_, fs ++ [Fault.illegalCommand cmd], b, State.takeIllegalCommand_responses _ _,
      step_illegal_command (s.withTrace rs fs a) cmd b rest hq ((refused_iff_not_legal s.cfg cmd).1 ⟨e, he⟩)⟩

/-- A run of at least one step that answers has a first step that answers, on every machine of the host. -/
theorem coreRun_succ_next (M : Host.Core) (n : Nat) (s u : M.State) (h : M.run (n + 1) s = .next u) :
    ∃ t, M.step s = .next t ∧ M.run n t = .next u := by
  simp only [Host.Core.run] at h
  split at h
  · next t hstep => exact ⟨t, hstep, h⟩
  · cases h
  · cases h

theorem runFor_succ_next (n : Nat) (s u : State) (h : runFor (n + 1) s = .next u) :
    ∃ t, step s = .next t ∧ runFor n t = .next u :=
  coreRun_succ_next Sys2Proof.core n s u h

/-- A run with other records and other last answers goes the same way and adds the same responses. -/
theorem runFor_withTrace (n : Nat) (s u : State) (rs : List Word) (fs : List Fault) (a : Answers)
    (h : runFor n s = .next u) :
    ∃ rs' fs' a', u.responses = s.responses ++ rs' ∧
      runFor n (s.withTrace rs fs a) = .next (u.withTrace (rs ++ rs') fs' a') := by
  induction n generalizing s rs fs a with
  | zero =>
    obtain rfl := Host.Outcome.next.inj h
    refine ⟨[], fs, a, (List.append_nil _).symm, ?_⟩
    rw [List.append_nil]
    rfl
  | succ n ih =>
    obtain ⟨t, hstep, hrun⟩ := runFor_succ_next n s u h
    obtain ⟨rs1, fs1, a1, hrs1, hstep'⟩ := step_withTrace s t rs fs a hstep
    obtain ⟨rs2, fs2, a2, hrs2, hrun'⟩ := ih t (rs ++ rs1) fs1 a1 hrun
    refine ⟨rs1 ++ rs2, fs2, a2, by rw [hrs2, hrs1, List.append_assoc], ?_⟩
    rw [runFor_succ_of_step n _ _ hstep', hrun', List.append_assoc]

/-- Settles O11: the step on the illegal word only changes records and last answers, and the rest of the run does not read
them. -/
theorem illegalWordLeavesNoTrace : Obligations.IllegalWordLeavesNoTrace := by
  intro s u cmd a rest n hq hillegal hrun
  obtain ⟨later, fs', a', hlater, hrun'⟩ := runFor_withTrace n _ u (s.responses ++ [0x8000#16])
    (s.faults ++ [.illegalCommand cmd]) a hrun
  have hstep := step_illegal_command s cmd a rest hq hillegal
  refine ⟨_, later, (runFor_succ_of_step n s _ hstep).trans hrun', rfl, hlater, ?_⟩
  exact List.append_assoc s.responses [0x8000#16] later

end Sys2Proof.Machine

/-! Sequences of commands on the Output Channel (40_output_channel.md section 4): the bytes transmitted and pending are
those accepted, in order, and how many are transmitted. -/

namespace Sys2Proof.Machine

/-! ### The bytes on their way (R36, R42) -/

/-- The bytes transmitted, then the pending ones: every byte on its way through the channel, oldest first. -/
def State.stream (s : State) : List (Option Byte) := s.txlog.map some ++ s.pending

theorem stream_length (s : State) : s.stream.length = s.txlog.length + s.ocount := by
  rw [State.stream, List.length_append, List.length_map, pending_length]

/-- The occupancy is fixed by the parameters and the indices. -/
theorem ocount_congr {s t : State} (hcfg : t.cfg = s.cfg) (hw : t.widx = s.widx) (hr : t.ridx = s.ridx) :
    t.ocount = s.ocount := by
  rw [State.ocount, State.ocount, hcfg, hw, hr]

/-- An unchanged Output Channel has the same pending bytes. -/
theorem pending_of_outputKept {s t : State} (hcfg : t.cfg = s.cfg) (h : OutputKept s t) : t.pending = s.pending := by
  rw [State.pending, State.pending, ocount_congr hcfg h.widx h.ridx, hcfg, h.ridx]
  exact List.map_congr_left fun n _ => h.obuf _

/-- Before the oldest pending byte was transmitted it stood in front of the others. -/
theorem pending_drained {s : State} (h : Inv s) (hne : s.widx ≠ s.ridx) (b : Byte) (hb : s.obuf.read s.ridx = some b)
    (txlog : List Byte) :
    s.pending = some b :: (s.drained (nextIndex s.cfg s.ridx) txlog).pending := by
  have hmove : ∀ n, (s.ridx + (n + 1)) % s.cfg.capacity = (nextIndex s.cfg s.ridx + n) % s.cfg.capacity := by
    intro n
    rw [nextIndex, Nat.mod_add_mod]
    congr 1
    omega
  rw [State.pending, ← ocount_drained h hne txlog, List.range_succ_eq_map, List.map_cons, List.map_map, Nat.add_zero,
    Nat.mod_eq_of_lt h.ridx_lt, hb]
  congr 1
  exact List.map_congr_left fun n _ => congrArg s.obuf.read (hmove n)

/-! ### What a sequence of commands does to the bytes on their way -/

/-- From `s` to `t` the bytes `accepted` joined the bytes on their way, and `ready` times a byte could leave: one left each
time, as long as the bytes that were pending in `s` last. -/
structure ChannelRun (ready : Nat) (accepted : List Byte) (s t : State) : Prop where
  stream : t.stream = s.stream ++ accepted.map some
  sent : s.txlog <+: t.txlog
  sent_le : t.txlog.length ≤ s.txlog.length + ready
  le_sent : s.txlog.length + min ready s.ocount ≤ t.txlog.length

theorem ChannelRun.of_outputKept {s t : State} (hcfg : t.cfg = s.cfg) (h : OutputKept s t) (htx : t.txlog = s.txlog) :
    ChannelRun 0 [] s t where
  stream := by rw [State.stream, State.stream, htx, pending_of_outputKept hcfg h, List.map_nil, List.append_nil]
  sent := by rw [htx]
  sent_le := by rw [htx, Nat.add_zero]
  le_sent := by rw [htx, Nat.zero_min, Nat.add_zero]

theorem ChannelRun.refl (s : State) : ChannelRun 0 [] s s :=
  .of_outputKept rfl ⟨rfl, rfl, sameCells_refl _⟩ rfl

/-- The ports of the command do not belong to the channel. -/
theorem ChannelRun.of_withPorts {ready : Nat} {accepted : List Byte} {s t : State} {rest : List HostEvent} {a : Answers}
    (h : ChannelRun ready accepted (s.withPorts rest a) t) : ChannelRun ready accepted s t :=
  ⟨h.stream, h.sent, h.sent_le, h.le_sent⟩

theorem ChannelRun.trans {m n : Nat} {xs ys : List Byte} {s t u : State} (h : ChannelRun m xs s t)
    (h' : ChannelRun n ys t u) : ChannelRun (m + n) (xs ++ ys) s u where
  stream := by rw [h'.stream, h.stream, List.map_append, List.append_assoc]
  sent := h.sent.trans h'.sent
  sent_le := by
    have hle := h.sent_le
    have hle' := h'.sent_le
    omega
  le_sent := by
    have hlength : t.txlog.length + t.ocount = s.txlog.length + s.ocount + xs.length := by
      rw [← stream_length, ← stream_length, h.stream, List.length_append, List.length_map]
    have hge := h.le_sent
    have hge' := h'.le_sent
    omega

/-! ### One command -/

/-- The byte that a command accepts when its response says `F = 1`. -/
def acceptedBy (i : Instr) (w : Word) : List Byte :=
  match i with
  | .enq b => if w.getLsbD 8 then [b] else []
  | _ => []

theorem acceptedByte_of_decode (c : Config) (cmd : Word) (a : Answers) (i : Instr) (w : Word)
    (h : decode c cmd = .ok i) : acceptedByte c (.command cmd a) w = acceptedBy i w := by
  simp only [acceptedByte, h]
  cases i <;> rfl

theorem acceptedByte_of_refused (c : Config) (cmd : Word) (a : Answers) (e : DecodeError) (w : Word)
    (h : decode c cmd = .error e) : acceptedByte c (.command cmd a) w = [] := by
  simp only [acceptedByte, h]

/-- How often a byte may leave during a command: once during an `SVC` with `tx_ready = 1`. -/
def readyDuring (i : Instr) (a : Answers) : Nat := if i = .svc then a.txReady.toNat else 0

/-- How often a byte may leave during an event. -/
def readyCount (c : Config) (e : HostEvent) : Nat := (isReadyService c e).toNat

theorem readyCount_of_decode (c : Config) (cmd : Word) (a : Answers) (i : Instr) (h : decode c cmd = .ok i) :
    readyCount c (.command cmd a) = readyDuring i a := by
  by_cases hi : i = .svc <;> simp [readyCount, isReadyService, readyDuring, h, hi]

theorem readyCount_of_refused (c : Config) (cmd : Word) (a : Answers) (e : DecodeError) (h : decode c cmd = .error e) :
    readyCount c (.command cmd a) = 0 := by
  simp [readyCount, isReadyService, h]

theorem countP_isReadyService_cons (c : Config) (e : HostEvent) (es : List HostEvent) :
    (e :: es).countP (isReadyService c) = readyCount c e + es.countP (isReadyService c) := by
  rw [List.countP_cons, Nat.add_comm, readyCount]
  cases isReadyService c e <;> rfl

section Command

variable {s t : State}

/-- An accepted byte joins the pending ones. -/
theorem channelRun_enqueued (h : Inv s) (b : Byte) (hroom : s.ofull = false) : ChannelRun 0 [b] s (s.enqueued b) where
  stream := by
    rw [State.stream, State.stream, pending_enqueued h b hroom, ← List.append_assoc]
    rfl
  sent := List.prefix_rfl
  sent_le := Nat.le_refl _
  le_sent := by
    rw [Nat.zero_min]
    exact Nat.le_refl _

/-- The drain step, when the peripheral is ready, moves the oldest pending byte, if there is one, to the transmitted
ones. -/
theorem channelRun_drainStep (h : Inv s) {ready tx : Bool} (hdrain : drainStep ready s = .ok (tx, t)) :
    ChannelRun ready.toNat [] s t := by
  obtain ⟨-, rfl, hidle⟩ | ⟨-, rfl, hne, -, b, hb, rfl⟩ := drainStep_ok ready s t tx hdrain
  · have hnone : min ready.toNat t.ocount = 0 := by
      obtain rfl | hempty := hidle
      · exact Nat.zero_min _
      · rw [ocount_eq_zero_of_empty hempty, Nat.min_zero]
    refine ⟨by rw [List.map_nil, List.append_nil], List.prefix_rfl, Nat.le_add_right _ _, ?_⟩
    rw [hnone, Nat.add_zero]
  · refine ⟨?_, List.prefix_append _ _, ?_, ?_⟩
    · rw [State.stream, State.stream, pending_drained h hne b hb (s.txlog ++ [b]), List.map_append, List.map_nil,
        List.append_nil, List.append_assoc]
      rfl
    · exact (List.length_append).le
    · rw [List.length_append]
      exact Nat.add_le_add_left (Nat.min_le_left _ _) _

/-- `SVC` does to the channel what its drain step does. -/
theorem channelRun_execSvc (h : Inv s) (hexec : execSvc s = .next t) : ChannelRun s.periph.txReady.toNat [] s t := by
  obtain ⟨tx, s1, rx, fr, s2, hdrain, hreceive, rfl⟩ := execSvc_next s t hexec
  have hs2 := receiveStep_frame _ _ _ _ _ hreceive
  have hkept : ChannelRun 0 [] s1 (s2.respond { rx := rx, tx := tx, f := fr }) := by
    rw [hs2]
    exact .of_outputKept rfl ⟨rfl, rfl, sameCells_refl _⟩ rfl
  exact (channelRun_drainStep h hdrain).trans hkept

/-- Every command but `INIT` moves the bytes on their way as its response and its answers say. -/
theorem channelRun_exec (h : Inv s) (i : Instr) (hi : i ≠ .init) (hexec : exec i s = .next t) :
    ∃ w, t.responses = s.responses ++ [w] ∧ ChannelRun (readyDuring i s.periph) (acceptedBy i w) s t := by
  cases i with
  | init => exact absurd rfl hi
  | enq b =>
    obtain ⟨-, rfl⟩ | ⟨hroom, -, rfl⟩ := execEnq_next b s t hexec
    · exact ⟨_, rfl, .of_outputKept rfl ⟨rfl, rfl, sameCells_refl _⟩ rfl⟩
    · exact ⟨_, rfl, (channelRun_enqueued h b hroom).trans
        (.of_outputKept (t := (s.enqueued b).respond { f := true }) rfl ⟨rfl, rfl, sameCells_refl _⟩ rfl)⟩
  | svc =>
    obtain ⟨r, hresp, -⟩ := exec_responds .svc s t hexec
    exact ⟨_, hresp, channelRun_execSvc h hexec⟩
  | clr =>
    obtain rfl := Host.Outcome.next.inj hexec
    exact ⟨_, rfl, .of_outputKept rfl ⟨rfl, rfl, sameCells_refl _⟩ rfl⟩
  | rdbuf ix =>
    obtain ⟨r, hresp, -⟩ := exec_responds (.rdbuf ix) s t hexec
    have hkept := execRdbuf_blockKept ix s t hexec
    exact ⟨_, hresp, .of_outputKept hkept.outside.cfg hkept.output hkept.peripheral.txlog⟩
  | rdreg r =>
    obtain rfl := Host.Outcome.next.inj hexec
    exact ⟨_, rfl, .of_outputKept rfl ⟨rfl, rfl, sameCells_refl _⟩ rfl⟩

/-! ### Steps and runs -/

/-- A step on a command that is not `INIT` answers, and moves the bytes on their way as its response and its answers say. -/
theorem step_channelRun (h : Inv s) (e : HostEvent) (rest : List HostEvent) (hq : s.requests = e :: rest)
    (hkeep : keepsPending s.cfg e = true) :
    ∃ t w, step s = .next t ∧ Inv t ∧ t.cfg = s.cfg ∧ t.requests = rest ∧ t.responses = s.responses ++ [w] ∧
      ChannelRun (readyCount s.cfg e) (acceptedByte s.cfg e w) s t := by
  cases e with
  | powerOn => exact absurd hkeep Bool.false_ne_true
  | command cmd a =>
    have hports := inv_withPorts h rest a
    cases hcmd : decode s.cfg cmd with
    | ok i =>
      have hi : i ≠ .init := by
        rintro rfl
        exact of_decide_eq_true hkeep hcmd
      obtain ⟨t, hexec⟩ := exec_completes hports i
      obtain ⟨w, hresp, hrun⟩ := channelRun_exec hports i hi hexec
      have hout := exec_keeps_outside i _ t hexec
      refine ⟨t, w, (step_decoded s cmd a rest i hq hcmd).trans hexec, inv_exec hports i hexec, hout.cfg, hout.requests,
        hresp, ?_⟩
      rw [readyCount_of_decode s.cfg cmd a i hcmd, acceptedByte_of_decode s.cfg cmd a i w hcmd]
      exact hrun.of_withPorts
    | error err =>
      have hillegal := (refused_iff_not_legal s.cfg cmd).1 ⟨err, hcmd⟩
      refine ⟨_, _, step_illegal_command s cmd a rest hq hillegal, inv_takeIllegalCommand hports cmd, rfl, rfl, rfl, ?_⟩
      rw [readyCount_of_refused s.cfg cmd a err hcmd, acceptedByte_of_refused s.cfg cmd a err _ hcmd]
      exact .of_outputKept rfl ⟨rfl, rfl, sameCells_refl _⟩ rfl

/-- A run of commands without `INIT` and power-on answers each, and moves the bytes on their way as the responses and the
ready `SVC`s say. -/
theorem runFor_channelRun (n : Nat) (s : State) (h : Inv s) (hn : n ≤ s.requests.length)
    (hkeep : ∀ e ∈ s.requests.take n, keepsPending s.cfg e = true) :
    ∃ t ws, runFor n s = .next t ∧ ws.length = n ∧ t.responses = s.responses ++ ws ∧
      ChannelRun ((s.requests.take n).countP (isReadyService s.cfg)) (acceptedBytes s.cfg (s.requests.take n) ws) s t := by
  induction n generalizing s with
  | zero => exact ⟨s, [], rfl, rfl, (List.append_nil _).symm, .refl s⟩
  | succ n ih =>
    cases hq : s.requests with
    | nil =>
      rw [hq] at hn
      exact absurd hn (Nat.not_succ_le_zero n)
    | cons e rest =>
      rw [hq, List.take_succ_cons] at hkeep
      rw [hq] at hn
      obtain ⟨t, w, hstep, hinv, hcfg, hrest, hresp, hone⟩ :=
        step_channelRun h e rest hq (hkeep e List.mem_cons_self)
      have hn' : n ≤ t.requests.length := hrest ▸ Nat.le_of_succ_le_succ hn
      have hkeep' : ∀ e' ∈ t.requests.take n, keepsPending t.cfg e' = true := by
        rw [hcfg, hrest]
        exact fun e' he' => hkeep e' (List.mem_cons_of_mem e he')
      obtain ⟨u, ws, hrun, hlen, hresp', hmany⟩ := ih t hinv hn' hkeep'
      rw [hcfg, hrest] at hmany
      refine ⟨u, w :: ws, (runFor_succ_of_step n s t hstep).trans hrun, congrArg Nat.succ hlen, ?_, ?_⟩
      · rw [hresp', hresp, List.append_assoc, List.singleton_append]
      · rw [List.take_succ_cons, countP_isReadyService_cons]
        exact hone.trans hmany

end Command

/-! ### Order and position of the transmitted bytes (R106, R108) -/

/-- From an empty channel the bytes sent are the first of those accepted. -/
theorem ChannelRun.sent_of_empty {ready : Nat} {accepted : List Byte} {s t : State} (h : ChannelRun ready accepted s t)
    (hempty : s.widx = s.ridx) : ∃ sent, t.txlog = s.txlog ++ sent ∧ sent <+: accepted := by
  obtain ⟨sent, hsent⟩ := h.sent
  refine ⟨sent, hsent.symm, ?_⟩
  have hstream := h.stream
  rw [State.stream, State.stream, pending_eq_nil_of_empty hempty, List.append_nil, ← hsent, List.map_append,
    List.append_assoc] at hstream
  have hmap : sent.map some <+: accepted.map some := ⟨t.pending, List.append_cancel_left hstream⟩
  exact (List.prefix_map_iff_of_injective (Option.some_injective _)).1 hmap

/-- Settles O45: the run keeps the bytes on their way in order (`runFor_channelRun`). -/
theorem bytesLeaveInAcceptanceOrder : Obligations.BytesLeaveInAcceptanceOrder := by
  intro n s h hn hkeep
  obtain ⟨t, ws, hrun, hlen, hresp, hchannel⟩ := runFor_channelRun n s h hn hkeep
  exact ⟨t, ws, hrun, hlen, hresp, hchannel.stream, hchannel.sent_of_empty⟩

/-- A byte transmitted is the byte at its place among those on their way. -/
theorem txlog_getElem?_of_stream {s : State} {k : Nat} {b : Byte} (hk : k < s.txlog.length)
    (h : s.stream[k]? = some (some b)) : s.txlog[k]? = some b := by
  rw [State.stream, List.getElem?_append_left (by rwa [List.length_map]), List.getElem?_map] at h
  simpa using h

/-- A byte on its way keeps its place. -/
theorem ChannelRun.stream_getElem? {ready : Nat} {accepted : List Byte} {s t : State} (h : ChannelRun ready accepted s t)
    {k : Nat} {c : Option Byte} (hk : s.stream[k]? = some c) : t.stream[k]? = some c := by
  obtain ⟨hlt, -⟩ := List.getElem?_eq_some_iff.1 hk
  rw [h.stream, List.getElem?_append_left hlt, hk]

/-- The byte accepted last stands behind the `OCOUNT` bytes that were pending. -/
theorem stream_enqueued_getElem? {s : State} (h : Inv s) (b : Byte) (hroom : s.ofull = false) :
    (s.enqueued b).stream[s.txlog.length + s.ocount]? = some (some b) := by
  rw [(channelRun_enqueued h b hroom).stream, ← stream_length]
  exact List.getElem?_concat_length

/-- Settles O47: after `ENQ` there are `OCOUNT + 1` pending bytes, so each of the first `OCOUNT + 1` ready `SVC`s transmits
one, and the accepted byte stands last of them. -/
theorem acceptedByteIsDeliveredInPosition : Obligations.AcceptedByteIsDeliveredInPosition := by
  intro s u b m h hfull hexec hm hkeep
  have hroom : s.ofull = false := by rwa [← Bool.not_eq_true, ofull_iff]
  obtain rfl := Host.Outcome.next.inj ((exec_enq_room b s hroom h.widx_lt).symm.trans hexec)
  have hocc : ((s.enqueued b).respond { f := true }).ocount = s.ocount + 1 := ocount_enqueued h b hroom
  obtain ⟨v, ws, hrun, -, -, hchannel⟩ := runFor_channelRun m _ (inv_exec h (.enq b) hexec) hm hkeep
  have hle := hchannel.sent_le
  have hge := hchannel.le_sent
  rw [hocc] at hge
  refine ⟨v, hrun, fun hfew => by omega, fun hmany => ?_⟩
  have hsent : ((s.enqueued b).respond { f := true }).txlog.length + s.ocount < v.txlog.length := by omega
  exact txlog_getElem?_of_stream hsent (hchannel.stream_getElem? (stream_enqueued_getElem? h b hroom))

end Sys2Proof.Machine
